-- ==== Sys2Proof/Word.lean ====
section
/-! DEFINITION. The widths of the machine: an 18-bit word, a 13-bit address, the one-bit Link, a 6-bit
character code (spec/00_scope.md R6, R10). -/

namespace Sys2Proof

/-- An 18-bit word, bit 0 the least significant (R9, R10). -/
abbrev Word := BitVec 18

/-- A 13-bit address (R10). -/
abbrev Addr := BitVec 13

/-- One bit, the Link's type (R10, R22). -/
abbrev Bit := BitVec 1

/-- A 6-bit character code group (R220). -/
abbrev Code := BitVec 6

/-- The number of words of the memory (R6, R50). -/
def memorySize : Nat := 8192

end Sys2Proof
end

