-- ==== Sys2Proof/Config.lean ====
section
/-! DEFINITION. What the host fixes before launch (the parameters of spec/00_scope.md R7) and the free
values the spec leaves open (R8, 40_cycle.md R106, 20_memory.md R61). The parameters are plain data,
carried by State.params, so that a claim about every state holds for every choice of them (log 1). -/

namespace Sys2Proof

/-- `MAILBOX_POLICY` (R7, R185, R186). -/
inductive MailboxPolicy where
  | block
  | overwrite
  deriving DecidableEq, Repr

/-- `PERIPHERAL` (R7, R190). -/
inductive Peripheral where
  | none
  | display
  | teleprinter
  deriving DecidableEq, Repr

/-- `ADD_NEGZERO` (R7, R128). -/
inductive AddNegzero where
  | normalizeResult
  | normalizeOperands
  | keep
  deriving DecidableEq, Repr

/-- `CAL_AC_SOURCE` (R7, R121). -/
inductive CalAcSource where
  | latched
  | stored
  deriving DecidableEq, Repr

/-- `CYC`, the cycle counts per operation without indirection (R108). -/
structure CycTable where
  cal : Nat
  dac : Nat
  jms : Nat
  dzm : Nat
  lac : Nat
  xor : Nat
  add : Nat
  tad : Nat
  xct : Nat
  isz : Nat
  and : Nat
  sad : Nat
  jmp : Nat
  iot : Nat
  opr : Nat
  deriving DecidableEq, Repr

/-- The parameters of R7. `DUMP_COMMENT` belongs to the external loader's text format (R56) and is no
parameter of the machine. -/
structure Params where
  startPc : Addr
  mailboxPolicy : MailboxPolicy
  peripheral : Peripheral
  iotKrb : Word
  iotTls : Word
  iotDsp : Word
  optLaw : Bool
  addNegzero : AddNegzero
  calAcSource : CalAcSource
  jmsSavesLink : Bool
  xctMaxDepth : Nat
  cyc : CycTable
  cx : Int
  cy : Int
  cols : Nat
  rows : Nat
  pointSigned : Bool
  chNul : Code
  chCr : Code
  chLf : Code
  chHsh : Code
  chVsh : Code
  chEsc : Code
  /-- `GLYPH` by its values at codes 0, 1, …; a code past the end of the list is its own glyph index,
  so that the empty list is R7's default, the identity, and the table is total (R231; log 16). -/
  glyph : List Nat
  deriving DecidableEq, Repr

/-- R108's default counts. -/
def CycTable.default : CycTable :=
  { cal := 2, dac := 2, jms := 2, dzm := 2, lac := 2, xor := 2, add := 2, tad := 2, xct := 1, isz := 2,
    and := 2, sad := 2, jmp := 1, iot := 1, opr := 1 }

/-- R7's default values (the spec's own assumptions; log 15). -/
def Params.default : Params :=
  { startPc := 0o2000
    mailboxPolicy := .block
    peripheral := .display
    iotKrb := 0o700312
    iotTls := 0o700406
    iotDsp := 0o700606
    optLaw := false
    addNegzero := .normalizeResult
    calAcSource := .latched
    jmsSavesLink := true
    xctMaxDepth := 16
    cyc := CycTable.default
    cx := 512
    cy := 512
    cols := 64
    rows := 32
    pointSigned := false
    chNul := 0o00
    chCr := 0o33
    chLf := 0o34
    chHsh := 0o35
    chVsh := 0o36
    chEsc := 0o37
    glyph := [] }

/-- The word is in the IOT class: bits 17..14 are `0b1110` (R7). -/
def isIotWord (w : Word) : Bool := w.extractLsb' 14 4 == 0b1110#4

/-- R7's conditions on the parameters: three pairwise distinct IOT words of the IOT class, an XCT depth
of at least 3, a grid of at least one cell, distinct control codes. -/
def Params.wf (p : Params) : Bool :=
  isIotWord p.iotKrb && isIotWord p.iotTls && isIotWord p.iotDsp
    && p.iotKrb != p.iotTls && p.iotKrb != p.iotDsp && p.iotTls != p.iotDsp
    && decide (3 ≤ p.xctMaxDepth) && decide (1 ≤ p.cols) && decide (1 ≤ p.rows)
    && decide [p.chNul, p.chCr, p.chLf, p.chHsh, p.chVsh, p.chEsc].Nodup

/-! The free values. Each is an uninterpreted function of State.draws, a counter every use advances, so
that two uses are two unrelated values. Nothing evaluates them. -/

/-- `SW`, the switches an OAS reads (R8, R156; log 6). -/
opaque Config.drawSwitches : Nat → BitVec 18

/-- `KBD`, the value the keyboard stub returns (R8, R182; log 6). -/
opaque Config.drawKeyboard : Nat → BitVec 8

/-- `EA` after an IOT or OPR step at depth 1 (R106; log 7). -/
opaque Config.drawEa : Nat → BitVec 13

/-- `MB` after an IOT or OPR step at depth 1 (R106; log 7). -/
opaque Config.drawMb : Nat → BitVec 18

/-- How many steps the CPU takes before the consumer, from a point where both may step and for as long as both
stay so: any number, but a number, so that a consumer that stays enabled is taken in the end (R61, R193, R275;
log 8). -/
opaque Config.drawWait : Nat → Nat

end Sys2Proof
end

