-- ==== Sys2Proof/Syntax.lean ====
section
/-! DEFINITION. The instructions: one constructor per row of spec/opcode_table.json, and the causes of a
fault (60_exceptions.md R251). A memory-reference instruction carries its indirect bit `I` and its
address field `Y` (30_encoding.md R81); the illegal rows carry the bits that the table leaves free. -/

namespace Sys2Proof

/-- The run-time causes of R251, recorded in FAULT. -/
inductive FaultCause where
  | badOpcode
  | badIot
  | badOperate
  | xctDepth
  deriving DecidableEq, Repr

/-- The instructions of the opcode table. -/
inductive Instr where
  | cal (ind : Bool) (y : Addr)
  | dac (ind : Bool) (y : Addr)
  | jms (ind : Bool) (y : Addr)
  | dzm (ind : Bool) (y : Addr)
  | lac (ind : Bool) (y : Addr)
  | xor (ind : Bool) (y : Addr)
  | add (ind : Bool) (y : Addr)
  | tad (ind : Bool) (y : Addr)
  | xct (ind : Bool) (y : Addr)
  | isz (ind : Bool) (y : Addr)
  | and (ind : Bool) (y : Addr)
  | sad (ind : Bool) (y : Addr)
  | jmp (ind : Bool) (y : Addr)
  /-- A word with `OP = 13`, which no instruction has (R252); `rest` is its bits 13..0. -/
  | opcode13 (rest : BitVec 14)
  | krb
  | tls
  | dsp
  /-- A word with `OP = 14` that is none of the three IOT words (R254); `rest` is its bits 13..0. -/
  | otherIot (rest : BitVec 14)
  /-- An operate word with no name of its own in the table; `bits` is its bits 12..0 (R86, R152). -/
  | opr (bits : BitVec 13)
  /-- A word with `OP = 15` and bit 13 set; `k` is its bits 12..0 (R164). -/
  | law (k : BitVec 13)
  | nop
  | cma
  | cml
  | oas
  | ral
  | rar
  | hlt
  | sma
  | sza
  | snl
  | skp
  | spa
  | sna
  | szl
  | rtl
  | rtr
  | cll
  | stl
  | rcl
  | rcr
  | cla
  | clc
  | las
  | glk
  deriving DecidableEq, Repr

end Sys2Proof
end

