-- ==== Sys2Proof/Decode.lean ====
section
/-! DEFINITION. Decoding and encoding of the 18-bit instruction word, both from the tables of
spec/30_encoding.md (R81 to R88) and spec/42_operate.md (R165). Decoding is total on words: every word is
an instruction of the opcode table, an illegal one among them, whose meaning then takes the fault of
R251 (log 13). A number that is no 18-bit word is rejected by name. -/

namespace Sys2Proof

/-! ### Fields (R81) -/

/-- `OP = w[17:14]` (R81). -/
def opField (w : Word) : BitVec 4 := w.extractLsb' 14 4

/-- `I = w[13]` (R81). -/
def indirectField (w : Word) : Bool := w.getLsbD 13

/-- `Y = w[12:0]`; for an operate word its micro-operation bits (R81, R86). -/
def addressField (w : Word) : BitVec 13 := w.extractLsb' 0 13

/-- Bits 13..0, all that `OP` leaves (R81). -/
def restField (w : Word) : BitVec 14 := w.extractLsb' 0 14

/-! ### The named operate words (R165), by their bits 12..0 -/

/-- NOP, `0o740000`. -/
def oprNop : BitVec 13 := 0o00000

/-- CMA, `0o740001`. -/
def oprCma : BitVec 13 := 0o00001

/-- CML, `0o740002`. -/
def oprCml : BitVec 13 := 0o00002

/-- OAS, `0o740004`. -/
def oprOas : BitVec 13 := 0o00004

/-- RAL, `0o740010`. -/
def oprRal : BitVec 13 := 0o00010

/-- RAR, `0o740020`. -/
def oprRar : BitVec 13 := 0o00020

/-- HLT, `0o740040`. -/
def oprHlt : BitVec 13 := 0o00040

/-- SMA, `0o740100`. -/
def oprSma : BitVec 13 := 0o00100

/-- SZA, `0o740200`. -/
def oprSza : BitVec 13 := 0o00200

/-- SNL, `0o740400`. -/
def oprSnl : BitVec 13 := 0o00400

/-- SKP, `0o741000`. -/
def oprSkp : BitVec 13 := 0o01000

/-- SPA, `0o741100`. -/
def oprSpa : BitVec 13 := 0o01100

/-- SNA, `0o741200`. -/
def oprSna : BitVec 13 := 0o01200

/-- SZL, `0o741400`. -/
def oprSzl : BitVec 13 := 0o01400

/-- RTL, `0o742010`. -/
def oprRtl : BitVec 13 := 0o02010

/-- RTR, `0o742020`. -/
def oprRtr : BitVec 13 := 0o02020

/-- CLL, `0o744000`. -/
def oprCll : BitVec 13 := 0o04000

/-- STL, `0o744002`. -/
def oprStl : BitVec 13 := 0o04002

/-- RCL, `0o744010`. -/
def oprRcl : BitVec 13 := 0o04010

/-- RCR, `0o744020`. -/
def oprRcr : BitVec 13 := 0o04020

/-- CLA, `0o750000`. -/
def oprCla : BitVec 13 := 0o10000

/-- CLC, `0o750001`. -/
def oprClc : BitVec 13 := 0o10001

/-- LAS, `0o750004`. -/
def oprLas : BitVec 13 := 0o10004

/-- GLK, `0o750010`. -/
def oprGlk : BitVec 13 := 0o10010

/-- The bits of every named operate word (R165). -/
def namedOperates : List (BitVec 13) :=
  [oprNop, oprCma, oprCml, oprOas, oprRal, oprRar, oprHlt, oprSma, oprSza, oprSnl, oprSkp, oprSpa,
   oprSna, oprSzl, oprRtl, oprRtr, oprCll, oprStl, oprRcl, oprRcr, oprCla, oprClc, oprLas, oprGlk]

/-- R151 (b) and (c): an operate word with bit 13 clear is legal unless it rotates both ways, or rotates
twice in no direction. DESIGN CHOICE, unsafe: a LAW word, with bit 13 set, is not tested so (log 27). -/
def operateLegal (bits : BitVec 13) : Bool :=
  !(bits.getLsbD 3 && bits.getLsbD 4) && !(bits.getLsbD 10 && !bits.getLsbD 3 && !bits.getLsbD 4)

/-! ### Decoding -/

/-- An operate word with bit 13 clear: a named word is its own row of the table, any other the row OPR. -/
def decodeOperate (bits : BitVec 13) : Instr :=
  if bits = oprNop then .nop
  else if bits = oprCma then .cma
  else if bits = oprCml then .cml
  else if bits = oprOas then .oas
  else if bits = oprRal then .ral
  else if bits = oprRar then .rar
  else if bits = oprHlt then .hlt
  else if bits = oprSma then .sma
  else if bits = oprSza then .sza
  else if bits = oprSnl then .snl
  else if bits = oprSkp then .skp
  else if bits = oprSpa then .spa
  else if bits = oprSna then .sna
  else if bits = oprSzl then .szl
  else if bits = oprRtl then .rtl
  else if bits = oprRtr then .rtr
  else if bits = oprCll then .cll
  else if bits = oprStl then .stl
  else if bits = oprRcl then .rcl
  else if bits = oprRcr then .rcr
  else if bits = oprCla then .cla
  else if bits = oprClc then .clc
  else if bits = oprLas then .las
  else if bits = oprGlk then .glk
  else .opr bits

/-- R180, R85: a word with `OP = 14` is recognized only as a whole. -/
def decodeIot (p : Params) (w : Word) : Instr :=
  if w = p.iotKrb then .krb
  else if w = p.iotTls then .tls
  else if w = p.iotDsp then .dsp
  else .otherIot (restField w)

/-- R88: every word decodes to exactly one instruction of the table, from the word and the parameters
alone. -/
def decode (p : Params) (w : Word) : Instr :=
  match (opField w).toNat with
  | 0 => .cal (indirectField w) (addressField w)
  | 1 => .dac (indirectField w) (addressField w)
  | 2 => .jms (indirectField w) (addressField w)
  | 3 => .dzm (indirectField w) (addressField w)
  | 4 => .lac (indirectField w) (addressField w)
  | 5 => .xor (indirectField w) (addressField w)
  | 6 => .add (indirectField w) (addressField w)
  | 7 => .tad (indirectField w) (addressField w)
  | 8 => .xct (indirectField w) (addressField w)
  | 9 => .isz (indirectField w) (addressField w)
  | 10 => .and (indirectField w) (addressField w)
  | 11 => .sad (indirectField w) (addressField w)
  | 12 => .jmp (indirectField w) (addressField w)
  | 13 => .opcode13 (restField w)
  | 14 => decodeIot p w
  | _ => if indirectField w then .law (addressField w) else decodeOperate (addressField w)

/-- Why a number is no instruction. -/
inductive DecodeError where
  /-- The number does not fit an 18-bit word (R50, R80); safe, because no memory cell holds one. -/
  | notAnEighteenBitWord
  deriving DecidableEq, Repr

/-- Decoding of any number, as a dump may hold one (R55): wider than a word is rejected by name. -/
def decodeNumber (p : Params) (n : Nat) : Except DecodeError Instr :=
  if n < 2 ^ 18 then .ok (decode p (BitVec.ofNat 18 n)) else .error .notAnEighteenBitWord

/-- The instruction of a table row's word, under the default parameters. The machine stores a word whole
(R53), so no byte is laid out, and every instruction is one word (R80), so `nbits` decides nothing. -/
def decodeTableWord (_nbits w : Nat) : Option Instr :=
  match decodeNumber Params.default w with
  | .ok i => some i
  | .error _ => none

/-! ### Encoding -/

/-- A memory-reference word: `OP`, `I`, `Y` (R81). -/
def memrefWord (op : BitVec 4) (ind : Bool) (y : Addr) : Word := op ++ BitVec.ofBool ind ++ y

/-- A word with `OP = 13` (R252). -/
def opcode13Word (rest : BitVec 14) : Word := 13#4 ++ rest

/-- A word with `OP = 14` (R180). -/
def otherIotWord (rest : BitVec 14) : Word := 14#4 ++ rest

/-- An operate word with bit 13 clear (R86). -/
def operateWord (bits : BitVec 13) : Word := 0b11110#5 ++ bits

/-- A LAW word (R164). -/
def lawWord (k : BitVec 13) : Word := 0b11111#5 ++ k

/-- The word of an instruction (R81, R83, R86, R165, and R7 for the IOT words). -/
def encode (p : Params) : Instr → Word
  | .cal ind y => memrefWord 0 ind y
  | .dac ind y => memrefWord 1 ind y
  | .jms ind y => memrefWord 2 ind y
  | .dzm ind y => memrefWord 3 ind y
  | .lac ind y => memrefWord 4 ind y
  | .xor ind y => memrefWord 5 ind y
  | .add ind y => memrefWord 6 ind y
  | .tad ind y => memrefWord 7 ind y
  | .xct ind y => memrefWord 8 ind y
  | .isz ind y => memrefWord 9 ind y
  | .and ind y => memrefWord 10 ind y
  | .sad ind y => memrefWord 11 ind y
  | .jmp ind y => memrefWord 12 ind y
  | .opcode13 rest => opcode13Word rest
  | .krb => p.iotKrb
  | .tls => p.iotTls
  | .dsp => p.iotDsp
  | .otherIot rest => otherIotWord rest
  | .opr bits => operateWord bits
  | .law k => lawWord k
  | .nop => operateWord oprNop
  | .cma => operateWord oprCma
  | .cml => operateWord oprCml
  | .oas => operateWord oprOas
  | .ral => operateWord oprRal
  | .rar => operateWord oprRar
  | .hlt => operateWord oprHlt
  | .sma => operateWord oprSma
  | .sza => operateWord oprSza
  | .snl => operateWord oprSnl
  | .skp => operateWord oprSkp
  | .spa => operateWord oprSpa
  | .sna => operateWord oprSna
  | .szl => operateWord oprSzl
  | .rtl => operateWord oprRtl
  | .rtr => operateWord oprRtr
  | .cll => operateWord oprCll
  | .stl => operateWord oprStl
  | .rcl => operateWord oprRcl
  | .rcr => operateWord oprRcr
  | .cla => operateWord oprCla
  | .clc => operateWord oprClc
  | .las => operateWord oprLas
  | .glk => operateWord oprGlk

/-- The word of one assembled instruction (R89): the OR of its mnemonics' words (several for an operate
instruction), of `0o020000` when `I` is written, and of the address. -/
def assembledWord (mnemonics : List Word) (ind : Bool) (y : Addr) : Word :=
  mnemonics.foldr (· ||| ·) 0 ||| (if ind then 0o020000 else 0) ||| (0#5 ++ y)

/-- R87: the cause with which a word's decoding faults, `none` for a recognized instruction. DESIGN CHOICE,
unsafe: with `OPT_LAW` every LAW word is recognized, whatever its bits 10, 4 and 3 (R164 before R151 (b), (c);
log 27). -/
def illegalCause (p : Params) : Instr → Option FaultCause
  | .opcode13 _ => some .badOpcode
  | .otherIot _ => some .badIot
  | .opr bits => if operateLegal bits then none else some .badOperate
  | .law _ => if p.optLaw then none else some .badOperate
  | .cal _ _ => none
  | .dac _ _ => none
  | .jms _ _ => none
  | .dzm _ _ => none
  | .lac _ _ => none
  | .xor _ _ => none
  | .add _ _ => none
  | .tad _ _ => none
  | .xct _ _ => none
  | .isz _ _ => none
  | .and _ _ => none
  | .sad _ _ => none
  | .jmp _ _ => none
  | .krb => none
  | .tls => none
  | .dsp => none
  | .nop => none
  | .cma => none
  | .cml => none
  | .oas => none
  | .ral => none
  | .rar => none
  | .hlt => none
  | .sma => none
  | .sza => none
  | .snl => none
  | .skp => none
  | .spa => none
  | .sna => none
  | .szl => none
  | .rtl => none
  | .rtr => none
  | .cll => none
  | .stl => none
  | .rcl => none
  | .rcr => none
  | .cla => none
  | .clc => none
  | .las => none
  | .glk => none

end Sys2Proof
end

