-- ==== Sys2Proof/Machine/State.lean ====
section
/-! DEFINITION. The machine's state as plain data, the outcomes' reasons, and the state after launch with
the default parameters and nothing loaded (spec/10_state.md R20 to R36, spec/70_reset_and_hazards.md R270). -/

namespace Sys2Proof.Machine

/-- One cell of the memory: an address and the 18-bit word there. The spec's smallest unit is the word
(R50, R53; log 5). -/
abbrev Cell := Nat × Word

/-- The memory as the list of its cells that do not read as an unlisted cell does (R50; log 4, log 5). -/
abbrev Memory := List Cell

/-- `MODE`, the display decoder's mode (R34). -/
inductive DisplayMode where
  | parameter
  | point
  | character
  | vector
  deriving DecidableEq, Repr

/-- A call on the rendering surface, one event of the output trace (R211, R212). -/
inductive SurfaceCall where
  | drawPoint (x y : Int) (lit : Bool)
  | drawLine (x0 y0 x1 y1 : Int) (lit : Bool)
  | drawGlyph (cellX cellY glyphIndex : Nat)
  | present
  deriving DecidableEq, Repr

/-- The fault record `(cause, word, pc)` (R29, R253). -/
structure FaultRecord where
  cause : FaultCause
  word : Word
  pc : Addr
  deriving DecidableEq, Repr

/-- Whose turn it is: the CPU's step, the consumer's take, or one of the host's two stops (R59, R267). -/
inductive Turn where
  | cpu
  | consumer
  | hostStopCpu
  | hostStopPeripheral
  deriving DecidableEq, Repr

/-- The machine's state: R20's tuple, the output trace (R212), and the model's own `params` (log 1), `draws`
(log 6, log 7), `wait` and `schedule` (log 8). -/
structure State where
  /-- `MEM` (R50). -/
  mem : Memory
  /-- `AC` (R21). -/
  ac : Word
  /-- `L` (R22). -/
  link : Bit
  /-- `PC` (R23). -/
  pc : Addr
  /-- `IR` (R24). -/
  ir : Word
  /-- `EA` (R25). -/
  ea : Addr
  /-- `MB` (R26). -/
  mb : Word
  /-- `RUN` (R27). -/
  run : Bool
  /-- `CYCLES` (R28). -/
  cycles : Nat
  /-- `FAULT` (R29). -/
  fault : Option FaultRecord
  /-- `MBX_TTY` (R31). -/
  mbxTty : Word
  /-- `MBX_DSP` (R31). -/
  mbxDsp : Word
  /-- `OVERWRITES` (R32). -/
  overwrites : Nat
  /-- `PRUN` (R33). -/
  prun : Bool
  /-- `MODE` (R34). -/
  mode : DisplayMode
  /-- `CUR_X` (R35). -/
  curX : Nat
  /-- `CUR_Y` (R35). -/
  curY : Nat
  /-- `TCUR_X` (R36). -/
  tcurX : Nat
  /-- `TCUR_Y` (R36). -/
  tcurY : Nat
  /-- The output trace, oldest call first (R212; log 19). -/
  trace : List SurfaceCall
  /-- The parameters the host chose before launch (R7); no step changes them (log 1). -/
  params : Params
  /-- How many free values have been taken (log 6, log 7, log 8). -/
  draws : Nat
  /-- How many free turns the CPU still has before the consumer's, once that number has been drawn; none again
  when the consumer's step is not enabled (R193; log 8). -/
  wait : Option Nat
  /-- The turns the environment has fixed, next turn first; when it is empty the turn is free, and the
  host is the standard one of R276 (log 8, log 26). -/
  schedule : List Turn
  deriving DecidableEq, Repr

/-- Why the machine stops. -/
inductive Fault where
  /-- Raised by `step` when no agent has an enabled step and nothing is left for the host to do: the CPU is
  halted, stopped or faulted, PRUN is 0, and the schedule holds no further turn (R276; log 10, log 26). Safe:
  the spec gives such a state no step. -/
  | runEnded
  deriving DecidableEq, Repr

/-- Why an instruction has no meaning. -/
inductive Refusal where
  /-- Raised by `exec`'s arm of an instruction that has no meaning yet; safe. No arm raises it now. -/
  | notModelled (mnemonic : String)
  deriving DecidableEq, Repr

/-- A load error of R251 (causes 5 and 6); it prevents the run and is never recorded in FAULT (R257). -/
inductive LoadError where
  | loadAddress
  | loadValue
  deriving DecidableEq, Repr

/-- What the effect of one instruction comes to inside a CPU step (R100): the state it leaves, a hold, or a
fault with its cause and the rejected word. -/
inductive Effect where
  | done (s : State)
  | hold
  | trap (cause : FaultCause) (word : Word)
  deriving DecidableEq, Repr

/-- The state after a launch with the default parameters and nothing loaded (R270): PC is `START_PC`, RUN is
1, FAULT none, the mailboxes empty, PRUN 1 for the default peripheral, MODE Parameter, the cursors at the
origin. DESIGN CHOICE, unsafe: AC, L (log 2), IR, EA and MB (log 3), which R270 leaves unspecified, are 0, and
so are the model's own fields (log 21). -/
def State.reset : State :=
  { mem := []
    ac := 0
    link := 0
    pc := Params.default.startPc
    ir := 0
    ea := 0
    mb := 0
    run := true
    cycles := 0
    fault := none
    mbxTty := 0
    mbxDsp := 0
    overwrites := 0
    prun := true
    mode := .parameter
    curX := 0
    curY := 0
    tcurX := 0
    tcurY := 0
    trace := []
    params := Params.default
    draws := 0
    wait := none
    schedule := [] }

end Sys2Proof.Machine
end

