-- ==== Sys2Proof/Machine/Ops.lean ====
section
/-! DEFINITION. The named operations over memory, registers and the mailboxes, taking a fault, and how an
instruction's effect becomes the outcome of a CPU step (spec/20_memory.md R50 to R52, spec/40_cycle.md
R100 to R113, spec/43_iot_mailbox.md R185, R186, spec/60_exceptions.md R251 to R257). -/

namespace Sys2Proof.Machine

/-! ### Words and addresses -/

/-- `mask13` of a word (R10). -/
def mask13 (w : Word) : Addr := w.extractLsb' 0 13

/-- `zext_18` of an address (R10). -/
def zext18 (a : Addr) : Word := 0#5 ++ a

/-! ### The memory -/

/-- What a cell that the memory does not list reads as. The spec gives an unloaded cell no value (R55).
DESIGN CHOICE, unsafe: 0 (log 4). -/
def unlistedWord : Word := 0

/-- The word at an address (R50, R52). -/
def Memory.read : Memory → Nat → Word
  | [], _ => unlistedWord
  | (b, u) :: rest, a => if b = a then u else Memory.read rest a

/-- The memory with `v` at `a`, in canonical form when the memory was (R52). -/
def Memory.write : Memory → Nat → Word → Memory
  | [], a, v => if v = unlistedWord then [] else [(a, v)]
  | (b, u) :: rest, a, v =>
    if a < b then (if v = unlistedWord then (b, u) :: rest else (a, v) :: (b, u) :: rest)
    else if b = a then (if v = unlistedWord then rest else (a, v) :: rest)
    else (b, u) :: Memory.write rest a v

/-- The canonical form: addresses strictly rising, all inside the memory, and no cell that reads as an
unlisted one does (log 5). -/
abbrev Memory.wf (m : Memory) : Prop :=
  m.Pairwise (fun c d => c.1 < d.1) ∧ ∀ c ∈ m, c.1 < memorySize ∧ c.2 ≠ unlistedWord

/-- `MemRead(a, 1)` (R52). -/
def State.readWord (s : State) (a : Addr) : Word := Memory.read s.mem a.toNat

/-- `MemWrite(a, 1, v)` (R52). -/
def State.writeWord (s : State) (a : Addr) (v : Word) : State :=
  { s with mem := Memory.write s.mem a.toNat v }

/-! ### The instruction cycle -/

/-- The word at PC, which the next CPU step fetches (R102, R64). -/
def State.fetchWord (s : State) : Word := s.readWord s.pc

/-- Fetch: IR receives the word at PC, and PC advances, wrapping at 13 bits (R102). -/
def State.fetched (s : State) : State := { s with ir := s.fetchWord, pc := s.pc + 1 }

/-- A skip: PC advances once more (R107). -/
def State.skipNext (s : State) : State := { s with pc := s.pc + 1 }

/-- A skip when the condition holds (R107). -/
def State.skipWhen (s : State) (c : Bool) : State := if c then s.skipNext else s

/-- CYCLES grows by the cost of a completed instruction (R109). -/
def State.addCycles (s : State) (n : Nat) : State := { s with cycles := s.cycles + n }

/-- EA and MB after an IOT or OPR step at depth 1: unspecified, so free values (R106; log 7). -/
def State.drawLatches (s : State) : State :=
  { s with ea := Config.drawEa s.draws, mb := Config.drawMb s.draws, draws := s.draws + 1 }

/-- One more cycle for indirection (R104, R109). -/
def indirectCost (ind : Bool) : Nat := if ind then 1 else 0

/-! ### Faults

The machine has no trap entry and no return from one (R261): a fault is final. -/

/-- The code of a run-time cause (R251). -/
def causeCode : FaultCause → Nat
  | .badOpcode => 1
  | .badIot => 2
  | .badOperate => 3
  | .xctDepth => 4

/-- The code of a load error (R251). -/
def loadErrorCode : LoadError → Nat
  | .loadAddress => 5
  | .loadValue => 6

/-- Taking a fault (R253): FAULT receives the cause, the rejected word and the address the outermost
instruction was fetched from, and PRUN is cleared. `s` is the state after the fetch (and the outermost
XCT's latching); nothing else is written. -/
def takeFault (cause : FaultCause) (word : Word) (pc : Addr) (s : State) : State :=
  { s with fault := some { cause := cause, word := word, pc := pc }, prun := false }

/-! ### From an effect to a step -/

/-- The state an effect leaves, changed by `f`; a hold and a fault stay as they are. -/
def Effect.map (f : State → State) : Effect → Effect
  | .done s => .done (f s)
  | .hold => .hold
  | .trap cause word => .trap cause word

/-- A completed effect adds its cost to CYCLES; a hold and a fault add nothing (R109). -/
def Effect.charge (n : Nat) : Effect → Effect := Effect.map (fun s => s.addCycles n)

/-- The outcome of a CPU step from `before`, whose instruction, in `prepared` (fetched, and latched by a
memory-reference instruction), came to an effect: a hold undoes the fetch too (R100; log 9), a fault is
recorded (R253; log 10). -/
def finishStep (before prepared : State) : Effect → Host.Outcome State Fault Refusal
  | .done s => .next s
  | .hold => .next before
  | .trap cause word => .next (takeFault cause word before.pc prepared)

/-- An instruction that computes no effective address (IOT, OPR and the illegal words) inside `exec` at
any depth: its effect and its cost (R103, R109). -/
def registerEffect (cost : CycTable → Nat) (effect : State → Effect) (s : State) : Effect :=
  (effect s).charge (cost s.params.cyc)

/-- A whole CPU step of such an instruction at depth 1: afterwards EA and MB are unspecified (R106). -/
def registerStep (cost : CycTable → Nat) (effect : State → Effect) (s : State) :
    Host.Outcome State Fault Refusal :=
  finishStep s s.fetched ((registerEffect cost effect s.fetched).map State.drawLatches)

/-! ### The mailboxes -/

/-- Which mailbox an IOT writes (R31). -/
inductive Mailbox where
  | tty
  | dsp
  deriving DecidableEq, Repr

/-- The word in a mailbox; 0 is empty (R31). -/
def State.mailbox (s : State) : Mailbox → Word
  | .tty => s.mbxTty
  | .dsp => s.mbxDsp

/-- The state with a word in a mailbox. -/
def State.withMailbox (s : State) (m : Mailbox) (v : Word) : State :=
  match m with
  | .tty => { s with mbxTty := v }
  | .dsp => { s with mbxDsp := v }

/-- `mailbox_write(M, v)`: under Block a full slot holds the step (R185); under Overwrite a full slot counts
an overwrite and is replaced (R186). A zero word leaves the slot empty (R187). -/
def mailboxWrite (m : Mailbox) (v : Word) (s : State) : Effect :=
  match s.params.mailboxPolicy with
  | .block => if s.mailbox m = 0 then .done (s.withMailbox m v) else .hold
  | .overwrite =>
    if s.mailbox m = 0 then .done (s.withMailbox m v)
    else .done { s.withMailbox m v with overwrites := s.overwrites + 1 }

end Sys2Proof.Machine
end

