-- ==== Sys2Proof/Machine/Iot.lean ====
section
/-! DEFINITION. The I/O instructions (spec/43_iot_mailbox.md R180 to R188) and the words the machine does
not recognize (spec/60_exceptions.md R252, R254). -/

namespace Sys2Proof.Machine

/-- KRB (R182): AC from the keyboard stub's 8 bits, a free value (log 6). -/
def krbEffect (s : State) : Effect :=
  .done { s with ac := 0#10 ++ Config.drawKeyboard s.draws, draws := s.draws + 1 }

/-- The word TLS sends: the low 8 bits of AC (R183). -/
def tlsWord (ac : Word) : Word := 0#10 ++ ac.extractLsb' 0 8

/-- TLS (R183). -/
def tlsEffect (s : State) : Effect := mailboxWrite .tty (tlsWord s.ac) s

/-- DSP (R184): the whole of AC. -/
def dspEffect (s : State) : Effect := mailboxWrite .dsp s.ac s

/-- A word with `OP = 13` (R252). -/
def opcode13Effect (rest : BitVec 14) (_s : State) : Effect := .trap .badOpcode (opcode13Word rest)

/-- A word with `OP = 14` that is not recognized (R254). -/
def otherIotEffect (rest : BitVec 14) (_s : State) : Effect := .trap .badIot (otherIotWord rest)

/-! ### Whole steps -/

/-- One step of KRB. -/
def execKrb (s : State) : Host.Outcome State Fault Refusal := registerStep (·.iot) krbEffect s

/-- One step of TLS. -/
def execTls (s : State) : Host.Outcome State Fault Refusal := registerStep (·.iot) tlsEffect s

/-- One step of DSP. -/
def execDsp (s : State) : Host.Outcome State Fault Refusal := registerStep (·.iot) dspEffect s

/-- One step of a word with `OP = 13`: it takes BAD_OPCODE. -/
def execOpcode13 (rest : BitVec 14) (s : State) : Host.Outcome State Fault Refusal :=
  registerStep (fun _ => 0) (opcode13Effect rest) s

/-- One step of an unrecognized IOT word: it takes BAD_IOT. -/
def execOtherIot (rest : BitVec 14) (s : State) : Host.Outcome State Fault Refusal :=
  registerStep (·.iot) (otherIotEffect rest) s

end Sys2Proof.Machine
end

