-- ==== Sys2Proof/Machine/Flags.lean ====
section
/-! DEFINITION. The computations that read or write the Link, the machine's only flag: the two additions
(spec/41_memref.md R128, R129), the rotates of the 19-bit ring and the operate instruction's register part
and skip condition (spec/42_operate.md R152 to R160). -/

namespace Sys2Proof.Machine

/-- A result and the Link with it. -/
structure AcLink where
  ac : Word
  link : Bit
  deriving DecidableEq, Repr

/-- `0o777777`, minus zero in one's complement (R10). -/
abbrev minusZero : Word := 0o777777

/-- An operand of ADD as `ADD_NEGZERO` treats it before the sum (R128). -/
def addOperand (mode : AddNegzero) (w : Word) : Word :=
  match mode with
  | .normalizeOperands => if w = minusZero then 0 else w
  | .normalizeResult => w
  | .keep => w

/-- The result of ADD as `ADD_NEGZERO` treats it after the end-around carry (R128). -/
def addResult (mode : AddNegzero) (w : Word) : Word :=
  match mode with
  | .normalizeResult => if w = minusZero then 0 else w
  | .normalizeOperands => w
  | .keep => w

/-- ADD: the sum with end-around carry; a carry out of bit 17 sets the Link, which ADD never clears
(R128). -/
def addOnes (mode : AddNegzero) (link : Bit) (a b : Word) : AcLink :=
  let sum := (addOperand mode a).toNat + (addOperand mode b).toNat
  if 2 ^ 18 ≤ sum then
    { ac := addResult mode (BitVec.ofNat 18 (sum - 2 ^ 18 + 1)), link := 1 }
  else { ac := addResult mode (BitVec.ofNat 18 sum), link := link }

/-- TAD: the sum modulo 2^18; a carry out of bit 17 complements the Link (R129). -/
def addTwos (link : Bit) (a b : Word) : AcLink :=
  let sum := a.toNat + b.toNat
  { ac := BitVec.ofNat 18 sum, link := if 2 ^ 18 ≤ sum then ~~~link else link }

/-- `rotl()`: `L <- AC[17]`, `AC <- AC[16:0]:L` (R154). -/
def rotl (r : AcLink) : AcLink :=
  { ac := r.ac.extractLsb' 0 17 ++ r.link, link := r.ac.extractLsb' 17 1 }

/-- `rotr()`: `L <- AC[0]`, `AC <- L:AC[17:1]` (R154). -/
def rotr (r : AcLink) : AcLink :=
  { ac := r.link ++ r.ac.extractLsb' 1 17, link := r.ac.extractLsb' 0 1 }

/-- A rotation once, or twice when bit 10 of the operate word is set (R152, R158). -/
def rotateTimes (bits : BitVec 13) (rot : AcLink → AcLink) (r : AcLink) : AcLink :=
  if bits.getLsbD 10 then rot (rot r) else rot r

/-- CLA and CLL, the first stage (R155). -/
def operateClears (bits : BitVec 13) (r : AcLink) : AcLink :=
  { ac := if bits.getLsbD 12 then 0 else r.ac, link := if bits.getLsbD 11 then 0 else r.link }

/-- OAS, the second stage: the switches OR-ed into AC (R156). -/
def operateSwitches (bits : BitVec 13) (sw : Word) (r : AcLink) : AcLink :=
  { r with ac := if bits.getLsbD 2 then r.ac ||| sw else r.ac }

/-- CMA and CML, the third stage (R157). -/
def operateComplements (bits : BitVec 13) (r : AcLink) : AcLink :=
  { ac := if bits.getLsbD 0 then ~~~r.ac else r.ac,
    link := if bits.getLsbD 1 then ~~~r.link else r.link }

/-- The rotates, the fourth stage (R158). -/
def operateRotates (bits : BitVec 13) (r : AcLink) : AcLink :=
  let left := if bits.getLsbD 3 then rotateTimes bits rotl r else r
  if bits.getLsbD 4 then rotateTimes bits rotr left else left

/-- The accumulator and Link an operate word leaves, in R152's order. -/
def operateAcLink (bits : BitVec 13) (sw : Word) (r : AcLink) : AcLink :=
  operateRotates bits (operateComplements bits (operateSwitches bits sw (operateClears bits r)))

/-- The skip condition on the accumulator and Link the stages before it left: the OR of the selected
tests, inverted by bit 9 (R160). -/
def operateSkips (bits : BitVec 13) (r : AcLink) : Bool :=
  Bool.xor
    ((bits.getLsbD 6 && r.ac.getLsbD 17) || (bits.getLsbD 7 && r.ac == 0) || (bits.getLsbD 8 && r.link == 1))
    (bits.getLsbD 9)

end Sys2Proof.Machine
end

