-- ==== Sys2Proof/Machine/Operands.lean ====
section
/-! DEFINITION. The two operand forms of a memory-reference instruction, direct and one level of
indirection, with the memory buffer read through them, and the shape every such instruction has
(spec/40_cycle.md R104, R105, R109, R113). -/

namespace Sys2Proof.Machine

/-- The effective address: `Y`, or the low 13 bits of the word at `Y`, once, whatever that word's bit 13
(R104). No location auto-increments. -/
def effectiveAddress (ind : Bool) (y : Addr) (s : State) : Addr :=
  if ind then mask13 (s.readWord y) else y

/-- The memory buffer: the word at the effective address before the instruction acts (R105). -/
def memoryBuffer (ind : Bool) (y : Addr) (s : State) : Word :=
  s.readWord (effectiveAddress ind y s)

/-- The latches of a memory-reference instruction at depth 1 (R113). -/
def State.latched (s : State) (ind : Bool) (y : Addr) : State :=
  { s with ea := effectiveAddress ind y s, mb := memoryBuffer ind y s }

/-- A memory-reference instruction inside `exec` at any depth: it acts on its own effective address and
buffer (R103, R110) and costs one cycle more when indirect (R109). -/
def memrefEffect (cost : CycTable → Nat) (act : Addr → Word → State → State) (ind : Bool) (y : Addr)
    (s : State) : Effect :=
  (Effect.done (act (effectiveAddress ind y s) (memoryBuffer ind y s) s)).charge
    (cost s.params.cyc + indirectCost ind)

/-- A whole CPU step of a memory-reference instruction other than XCT: fetch, latch, act (R100, R113). -/
def memrefStep (cost : CycTable → Nat) (act : Addr → Word → State → State) (ind : Bool) (y : Addr)
    (s : State) : Host.Outcome State Fault Refusal :=
  finishStep s (s.fetched.latched ind y) (memrefEffect cost act ind y (s.fetched.latched ind y))

end Sys2Proof.Machine
end

