-- ==== Sys2Proof/Machine/Memref.lean ====
section
/-! DEFINITION. The memory-reference instructions other than XCT (spec/41_memref.md R121 to R133): what each
does with its effective address and buffer once PC points past the instruction, and its whole CPU step. -/

namespace Sys2Proof.Machine

/-- CAL (R121): the return address into the cell, AC from the cell's old word or from the address just
stored, PC past the cell. L is never stored. -/
def calAct (ea : Addr) (mb : Word) (s : State) : State :=
  let ret := zext18 s.pc
  let ac := match s.params.calAcSource with
    | .latched => mb
    | .stored => ret
  { s.writeWord ea ret with pc := ea + 1, ac := ac }

/-- DAC (R122): AC into the cell. -/
def dacAct (ea : Addr) (_mb : Word) (s : State) : State := s.writeWord ea s.ac

/-- The word JMS stores: the return address, with L in bit 17 when `JMS_SAVES_LINK` (R123). -/
def jmsReturnWord (s : State) : Word :=
  if s.params.jmsSavesLink then s.link ++ 0#4 ++ s.pc else zext18 s.pc

/-- JMS (R123): the return word into the cell, PC past the cell. -/
def jmsAct (ea : Addr) (_mb : Word) (s : State) : State :=
  { s.writeWord ea (jmsReturnWord s) with pc := ea + 1 }

/-- DZM (R124): zero into the cell. -/
def dzmAct (ea : Addr) (_mb : Word) (s : State) : State := s.writeWord ea 0

/-- LAC (R125): AC from the buffer. -/
def lacAct (_ea : Addr) (mb : Word) (s : State) : State := { s with ac := mb }

/-- XOR (R126). -/
def xorAct (_ea : Addr) (mb : Word) (s : State) : State := { s with ac := s.ac ^^^ mb }

/-- AND (R127). -/
def andAct (_ea : Addr) (mb : Word) (s : State) : State := { s with ac := s.ac &&& mb }

/-- ADD (R128). -/
def addAct (_ea : Addr) (mb : Word) (s : State) : State :=
  let r := addOnes s.params.addNegzero s.link s.ac mb
  { s with ac := r.ac, link := r.link }

/-- TAD (R129). -/
def tadAct (_ea : Addr) (mb : Word) (s : State) : State :=
  let r := addTwos s.link s.ac mb
  { s with ac := r.ac, link := r.link }

/-- ISZ (R131): the cell incremented, its carry dropped, and a skip when it became zero. -/
def iszAct (ea : Addr) (mb : Word) (s : State) : State :=
  (s.writeWord ea (mb + 1)).skipWhen (mb + 1 == 0)

/-- SAD (R132): a skip when AC differs from the buffer. -/
def sadAct (_ea : Addr) (mb : Word) (s : State) : State := s.skipWhen (s.ac != mb)

/-- JMP (R133): PC from the effective address. -/
def jmpAct (ea : Addr) (_mb : Word) (s : State) : State := { s with pc := ea }

/-! ### Whole steps -/

/-- One step of CAL. -/
def execCal (ind : Bool) (y : Addr) (s : State) : Host.Outcome State Fault Refusal :=
  memrefStep (·.cal) calAct ind y s

/-- One step of DAC. -/
def execDac (ind : Bool) (y : Addr) (s : State) : Host.Outcome State Fault Refusal :=
  memrefStep (·.dac) dacAct ind y s

/-- One step of JMS. -/
def execJms (ind : Bool) (y : Addr) (s : State) : Host.Outcome State Fault Refusal :=
  memrefStep (·.jms) jmsAct ind y s

/-- One step of DZM. -/
def execDzm (ind : Bool) (y : Addr) (s : State) : Host.Outcome State Fault Refusal :=
  memrefStep (·.dzm) dzmAct ind y s

/-- One step of LAC. -/
def execLac (ind : Bool) (y : Addr) (s : State) : Host.Outcome State Fault Refusal :=
  memrefStep (·.lac) lacAct ind y s

/-- One step of XOR. -/
def execXor (ind : Bool) (y : Addr) (s : State) : Host.Outcome State Fault Refusal :=
  memrefStep (·.xor) xorAct ind y s

/-- One step of AND. -/
def execAnd (ind : Bool) (y : Addr) (s : State) : Host.Outcome State Fault Refusal :=
  memrefStep (·.and) andAct ind y s

/-- One step of ADD. -/
def execAdd (ind : Bool) (y : Addr) (s : State) : Host.Outcome State Fault Refusal :=
  memrefStep (·.add) addAct ind y s

/-- One step of TAD. -/
def execTad (ind : Bool) (y : Addr) (s : State) : Host.Outcome State Fault Refusal :=
  memrefStep (·.tad) tadAct ind y s

/-- One step of ISZ. -/
def execIsz (ind : Bool) (y : Addr) (s : State) : Host.Outcome State Fault Refusal :=
  memrefStep (·.isz) iszAct ind y s

/-- One step of SAD. -/
def execSad (ind : Bool) (y : Addr) (s : State) : Host.Outcome State Fault Refusal :=
  memrefStep (·.sad) sadAct ind y s

/-- One step of JMP. -/
def execJmp (ind : Bool) (y : Addr) (s : State) : Host.Outcome State Fault Refusal :=
  memrefStep (·.jmp) jmpAct ind y s

end Sys2Proof.Machine
end

