-- ==== Sys2Proof/Machine/Operate.lean ====
section
/-! DEFINITION. The operate instruction, its named words and LAW (spec/42_operate.md R150 to R165). A named
word is a spelling executed by the composition rule R152; each has a definition of its own. -/

namespace Sys2Proof.Machine

/-- The micro-operations of a legal operate word in R152's order: the accumulator and Link, the skip, the
halt. The switches are drawn only when OAS is selected (R156; log 6). -/
def operate (bits : BitVec 13) (s : State) : State :=
  let r := operateAcLink bits (Config.drawSwitches s.draws) { ac := s.ac, link := s.link }
  let t := { s with
    ac := r.ac
    link := r.link
    draws := if bits.getLsbD 2 then s.draws + 1 else s.draws
    run := if bits.getLsbD 5 then false else s.run }
  t.skipWhen (operateSkips bits r)

/-- An operate word with bit 13 clear: an illegal one faults before any effect (R151). -/
def operateEffect (bits : BitVec 13) (s : State) : Effect :=
  if operateLegal bits then .done (operate bits s) else .trap .badOperate (operateWord bits)

/-- OPR, an operate word without a name of its own (R152). -/
def oprEffect (bits : BitVec 13) (s : State) : Effect := operateEffect bits s

/-- LAW (R164): AC from the whole instruction word when `OPT_LAW`, else BAD_OPERATE (R151 (a)). DESIGN CHOICE,
unsafe: with `OPT_LAW` the tests R151 (b) and (c) are not made on a LAW word, whose low bits are data there
(log 27). -/
def lawEffect (k : BitVec 13) (s : State) : Effect :=
  if s.params.optLaw then .done { s with ac := lawWord k } else .trap .badOperate (lawWord k)

/-- NOP, `0o740000` (R165). -/
def nopEffect (s : State) : Effect := operateEffect oprNop s

/-- CMA, `0o740001` (R165). -/
def cmaEffect (s : State) : Effect := operateEffect oprCma s

/-- CML, `0o740002` (R165). -/
def cmlEffect (s : State) : Effect := operateEffect oprCml s

/-- OAS, `0o740004` (R165). -/
def oasEffect (s : State) : Effect := operateEffect oprOas s

/-- RAL, `0o740010` (R165). -/
def ralEffect (s : State) : Effect := operateEffect oprRal s

/-- RAR, `0o740020` (R165). -/
def rarEffect (s : State) : Effect := operateEffect oprRar s

/-- HLT, `0o740040` (R165). -/
def hltEffect (s : State) : Effect := operateEffect oprHlt s

/-- SMA, `0o740100` (R165). -/
def smaEffect (s : State) : Effect := operateEffect oprSma s

/-- SZA, `0o740200` (R165). -/
def szaEffect (s : State) : Effect := operateEffect oprSza s

/-- SNL, `0o740400` (R165). -/
def snlEffect (s : State) : Effect := operateEffect oprSnl s

/-- SKP, `0o741000` (R165). -/
def skpEffect (s : State) : Effect := operateEffect oprSkp s

/-- SPA, `0o741100` (R165). -/
def spaEffect (s : State) : Effect := operateEffect oprSpa s

/-- SNA, `0o741200` (R165). -/
def snaEffect (s : State) : Effect := operateEffect oprSna s

/-- SZL, `0o741400` (R165). -/
def szlEffect (s : State) : Effect := operateEffect oprSzl s

/-- RTL, `0o742010` (R165). -/
def rtlEffect (s : State) : Effect := operateEffect oprRtl s

/-- RTR, `0o742020` (R165). -/
def rtrEffect (s : State) : Effect := operateEffect oprRtr s

/-- CLL, `0o744000` (R165). -/
def cllEffect (s : State) : Effect := operateEffect oprCll s

/-- STL, `0o744002` (R165). -/
def stlEffect (s : State) : Effect := operateEffect oprStl s

/-- RCL, `0o744010` (R165). -/
def rclEffect (s : State) : Effect := operateEffect oprRcl s

/-- RCR, `0o744020` (R165). -/
def rcrEffect (s : State) : Effect := operateEffect oprRcr s

/-- CLA, `0o750000` (R165). -/
def claEffect (s : State) : Effect := operateEffect oprCla s

/-- CLC, `0o750001` (R165). -/
def clcEffect (s : State) : Effect := operateEffect oprClc s

/-- LAS, `0o750004` (R165). -/
def lasEffect (s : State) : Effect := operateEffect oprLas s

/-- GLK, `0o750010` (R165). -/
def glkEffect (s : State) : Effect := operateEffect oprGlk s

/-! ### Whole steps -/

/-- One step of an operate word. -/
def execOpr (bits : BitVec 13) (s : State) : Host.Outcome State Fault Refusal :=
  registerStep (·.opr) (oprEffect bits) s

/-- One step of LAW; an operate word, it costs what OPR costs (log 18). -/
def execLaw (k : BitVec 13) (s : State) : Host.Outcome State Fault Refusal :=
  registerStep (·.opr) (lawEffect k) s

/-- One step of NOP. -/
def execNop (s : State) : Host.Outcome State Fault Refusal := registerStep (·.opr) nopEffect s

/-- One step of CMA. -/
def execCma (s : State) : Host.Outcome State Fault Refusal := registerStep (·.opr) cmaEffect s

/-- One step of CML. -/
def execCml (s : State) : Host.Outcome State Fault Refusal := registerStep (·.opr) cmlEffect s

/-- One step of OAS. -/
def execOas (s : State) : Host.Outcome State Fault Refusal := registerStep (·.opr) oasEffect s

/-- One step of RAL. -/
def execRal (s : State) : Host.Outcome State Fault Refusal := registerStep (·.opr) ralEffect s

/-- One step of RAR. -/
def execRar (s : State) : Host.Outcome State Fault Refusal := registerStep (·.opr) rarEffect s

/-- One step of HLT. -/
def execHlt (s : State) : Host.Outcome State Fault Refusal := registerStep (·.opr) hltEffect s

/-- One step of SMA. -/
def execSma (s : State) : Host.Outcome State Fault Refusal := registerStep (·.opr) smaEffect s

/-- One step of SZA. -/
def execSza (s : State) : Host.Outcome State Fault Refusal := registerStep (·.opr) szaEffect s

/-- One step of SNL. -/
def execSnl (s : State) : Host.Outcome State Fault Refusal := registerStep (·.opr) snlEffect s

/-- One step of SKP. -/
def execSkp (s : State) : Host.Outcome State Fault Refusal := registerStep (·.opr) skpEffect s

/-- One step of SPA. -/
def execSpa (s : State) : Host.Outcome State Fault Refusal := registerStep (·.opr) spaEffect s

/-- One step of SNA. -/
def execSna (s : State) : Host.Outcome State Fault Refusal := registerStep (·.opr) snaEffect s

/-- One step of SZL. -/
def execSzl (s : State) : Host.Outcome State Fault Refusal := registerStep (·.opr) szlEffect s

/-- One step of RTL. -/
def execRtl (s : State) : Host.Outcome State Fault Refusal := registerStep (·.opr) rtlEffect s

/-- One step of RTR. -/
def execRtr (s : State) : Host.Outcome State Fault Refusal := registerStep (·.opr) rtrEffect s

/-- One step of CLL. -/
def execCll (s : State) : Host.Outcome State Fault Refusal := registerStep (·.opr) cllEffect s

/-- One step of STL. -/
def execStl (s : State) : Host.Outcome State Fault Refusal := registerStep (·.opr) stlEffect s

/-- One step of RCL. -/
def execRcl (s : State) : Host.Outcome State Fault Refusal := registerStep (·.opr) rclEffect s

/-- One step of RCR. -/
def execRcr (s : State) : Host.Outcome State Fault Refusal := registerStep (·.opr) rcrEffect s

/-- One step of CLA. -/
def execCla (s : State) : Host.Outcome State Fault Refusal := registerStep (·.opr) claEffect s

/-- One step of CLC. -/
def execClc (s : State) : Host.Outcome State Fault Refusal := registerStep (·.opr) clcEffect s

/-- One step of LAS. -/
def execLas (s : State) : Host.Outcome State Fault Refusal := registerStep (·.opr) lasEffect s

/-- One step of GLK. -/
def execGlk (s : State) : Host.Outcome State Fault Refusal := registerStep (·.opr) glkEffect s

end Sys2Proof.Machine
end

