-- ==== Sys2Proof/Machine/Xct.lean ====
section
/-! DEFINITION. XCT: the execution of a word in memory as if it had been fetched, to a bounded depth
(spec/40_cycle.md R103, R110, spec/41_memref.md R130, spec/60_exceptions.md R256). -/

namespace Sys2Proof.Machine

/-- `exec(w, d)` of R103 for a nested word, with `fuel = XCT_MAX_DEPTH - d + 1` further levels allowed: at
0 the depth test, which comes before the decoding (R258), faults. A nested word does not fetch, computes
its own effective address and buffer, and writes no latch (R110, R113). -/
def execWord (fuel : Nat) (w : Word) (s : State) : Effect :=
  match fuel with
  | 0 => .trap .xctDepth w
  | fuel + 1 =>
    match decode s.params w with
    | .xct ind y =>
      (execWord fuel (memoryBuffer ind y s) s).charge (s.params.cyc.xct + indirectCost ind)
    | .cal ind y => memrefEffect (·.cal) calAct ind y s
    | .dac ind y => memrefEffect (·.dac) dacAct ind y s
    | .jms ind y => memrefEffect (·.jms) jmsAct ind y s
    | .dzm ind y => memrefEffect (·.dzm) dzmAct ind y s
    | .lac ind y => memrefEffect (·.lac) lacAct ind y s
    | .xor ind y => memrefEffect (·.xor) xorAct ind y s
    | .add ind y => memrefEffect (·.add) addAct ind y s
    | .tad ind y => memrefEffect (·.tad) tadAct ind y s
    | .isz ind y => memrefEffect (·.isz) iszAct ind y s
    | .and ind y => memrefEffect (·.and) andAct ind y s
    | .sad ind y => memrefEffect (·.sad) sadAct ind y s
    | .jmp ind y => memrefEffect (·.jmp) jmpAct ind y s
    | .opcode13 rest => registerEffect (fun _ => 0) (opcode13Effect rest) s
    | .krb => registerEffect (·.iot) krbEffect s
    | .tls => registerEffect (·.iot) tlsEffect s
    | .dsp => registerEffect (·.iot) dspEffect s
    | .otherIot rest => registerEffect (·.iot) (otherIotEffect rest) s
    | .opr bits => registerEffect (·.opr) (oprEffect bits) s
    | .law k => registerEffect (·.opr) (lawEffect k) s
    | .nop => registerEffect (·.opr) nopEffect s
    | .cma => registerEffect (·.opr) cmaEffect s
    | .cml => registerEffect (·.opr) cmlEffect s
    | .oas => registerEffect (·.opr) oasEffect s
    | .ral => registerEffect (·.opr) ralEffect s
    | .rar => registerEffect (·.opr) rarEffect s
    | .hlt => registerEffect (·.opr) hltEffect s
    | .sma => registerEffect (·.opr) smaEffect s
    | .sza => registerEffect (·.opr) szaEffect s
    | .snl => registerEffect (·.opr) snlEffect s
    | .skp => registerEffect (·.opr) skpEffect s
    | .spa => registerEffect (·.opr) spaEffect s
    | .sna => registerEffect (·.opr) snaEffect s
    | .szl => registerEffect (·.opr) szlEffect s
    | .rtl => registerEffect (·.opr) rtlEffect s
    | .rtr => registerEffect (·.opr) rtrEffect s
    | .cll => registerEffect (·.opr) cllEffect s
    | .stl => registerEffect (·.opr) stlEffect s
    | .rcl => registerEffect (·.opr) rclEffect s
    | .rcr => registerEffect (·.opr) rcrEffect s
    | .cla => registerEffect (·.opr) claEffect s
    | .clc => registerEffect (·.opr) clcEffect s
    | .las => registerEffect (·.opr) lasEffect s
    | .glk => registerEffect (·.opr) glkEffect s

/-- XCT inside `exec` at depth 1: the word in its buffer executes at depth 2 (R110, R130). -/
def xctEffect (ind : Bool) (y : Addr) (s : State) : Effect :=
  (execWord (s.params.xctMaxDepth - 1) (memoryBuffer ind y s) s).charge
    (s.params.cyc.xct + indirectCost ind)

/-- One step of XCT: IR, EA and MB keep the outer XCT's values (R113, R130). -/
def execXct (ind : Bool) (y : Addr) (s : State) : Host.Outcome State Fault Refusal :=
  finishStep s (s.fetched.latched ind y) (xctEffect ind y (s.fetched.latched ind y))

/-- The CPU's next instruction holds: a mailbox write to a full slot under Block, itself or at the end of an
XCT chain (R100, R130, R185). The fuel is `exec`'s own: depth 1 never faults (R110, log 24). -/
def cpuHolds (s : State) : Bool :=
  execWord (s.params.xctMaxDepth - 1 + 1) s.fetchWord s.fetched == .hold

end Sys2Proof.Machine
end

