-- ==== Sys2Proof/Machine/Dispatch.lean ====
section
/-! DEFINITION. One arm per instruction: its whole CPU step from the state before the fetch (log 12). -/

namespace Sys2Proof.Machine

def exec (i : Instr) (s : State) : Host.Outcome State Fault Refusal :=
  match i with
  | .cal ind y => Sys2Proof.Machine.execCal ind y s
  | .dac ind y => Sys2Proof.Machine.execDac ind y s
  | .jms ind y => Sys2Proof.Machine.execJms ind y s
  | .dzm ind y => Sys2Proof.Machine.execDzm ind y s
  | .lac ind y => Sys2Proof.Machine.execLac ind y s
  | .xor ind y => Sys2Proof.Machine.execXor ind y s
  | .add ind y => Sys2Proof.Machine.execAdd ind y s
  | .tad ind y => Sys2Proof.Machine.execTad ind y s
  | .xct ind y => Sys2Proof.Machine.execXct ind y s
  | .isz ind y => Sys2Proof.Machine.execIsz ind y s
  | .and ind y => Sys2Proof.Machine.execAnd ind y s
  | .sad ind y => Sys2Proof.Machine.execSad ind y s
  | .jmp ind y => Sys2Proof.Machine.execJmp ind y s
  | .opcode13 rest => Sys2Proof.Machine.execOpcode13 rest s
  | .krb => Sys2Proof.Machine.execKrb s
  | .tls => Sys2Proof.Machine.execTls s
  | .dsp => Sys2Proof.Machine.execDsp s
  | .otherIot rest => Sys2Proof.Machine.execOtherIot rest s
  | .opr bits => Sys2Proof.Machine.execOpr bits s
  | .law k => Sys2Proof.Machine.execLaw k s
  | .nop => Sys2Proof.Machine.execNop s
  | .cma => Sys2Proof.Machine.execCma s
  | .cml => Sys2Proof.Machine.execCml s
  | .oas => Sys2Proof.Machine.execOas s
  | .ral => Sys2Proof.Machine.execRal s
  | .rar => Sys2Proof.Machine.execRar s
  | .hlt => Sys2Proof.Machine.execHlt s
  | .sma => Sys2Proof.Machine.execSma s
  | .sza => Sys2Proof.Machine.execSza s
  | .snl => Sys2Proof.Machine.execSnl s
  | .skp => Sys2Proof.Machine.execSkp s
  | .spa => Sys2Proof.Machine.execSpa s
  | .sna => Sys2Proof.Machine.execSna s
  | .szl => Sys2Proof.Machine.execSzl s
  | .rtl => Sys2Proof.Machine.execRtl s
  | .rtr => Sys2Proof.Machine.execRtr s
  | .cll => Sys2Proof.Machine.execCll s
  | .stl => Sys2Proof.Machine.execStl s
  | .rcl => Sys2Proof.Machine.execRcl s
  | .rcr => Sys2Proof.Machine.execRcr s
  | .cla => Sys2Proof.Machine.execCla s
  | .clc => Sys2Proof.Machine.execClc s
  | .las => Sys2Proof.Machine.execLas s
  | .glk => Sys2Proof.Machine.execGlk s

end Sys2Proof.Machine
end

