-- ==== Sys2Proof/Machine/Display.lean ====
section
/-! DEFINITION. The display protocol decoder and its Character-mode part, which the teleprinter shares
(spec/44_display.md R210 to R236). -/

namespace Sys2Proof.Machine

/-! ### Modes (R214 to R219) -/

/-- `set_mode(k)`: undefined codes select Parameter (R215). -/
def modeOfCode (k : BitVec 3) : DisplayMode :=
  match k.toNat with
  | 1 => .point
  | 3 => .character
  | 4 => .vector
  | _ => .parameter

/-- The next-mode field of a parameter or point word, `x[15:13]` (R214, R216). -/
def nextModeField (x : Word) : BitVec 3 := x.extractLsb' 13 3

/-- A point word's offset from the midline: its 10-bit field, signed when `POINT_SIGNED` (R217). -/
def pointOffset (p : Params) (x : Word) : Int :=
  if p.pointSigned then (x.extractLsb' 0 10).toInt else ((x.extractLsb' 0 10).toNat : Int)

/-- The call a point word makes: the point on the selected axis, the other coordinate at the centre (R217). -/
def pointCall (p : Params) (x : Word) : SurfaceCall :=
  if x.getLsbD 16 then .drawPoint (p.cx + pointOffset p x) p.cy (x.getLsbD 10)
  else .drawPoint p.cx (p.cy + pointOffset p x) (x.getLsbD 10)

/-- A 7-bit magnitude with its sign bit (R218). -/
def signedMagnitude (negative : Bool) (magnitude : BitVec 7) : Int :=
  if negative then -(magnitude.toNat : Int) else (magnitude.toNat : Int)

/-- The call a vector word makes: a line from the centre (R218, R219). -/
def vectorCall (p : Params) (x : Word) : SurfaceCall :=
  .drawLine p.cx p.cy
    (p.cx + signedMagnitude (x.getLsbD 7) (x.extractLsb' 0 7))
    (p.cy + signedMagnitude (x.getLsbD 15) (x.extractLsb' 8 7))
    (x.getLsbD 16)

/-! ### Character mode (R220 to R228) -/

/-- What decoding the groups of a word leaves: the calls it made, the cursor, and whether an escape ended
it. -/
structure CharacterResult where
  calls : List SurfaceCall
  cx : Nat
  cy : Nat
  escaped : Bool
  deriving DecidableEq, Repr

/-- The glyph index of a code: its table entry, itself past the table's end (R222; log 16). -/
def glyphIndex (p : Params) (g : Code) : Nat := p.glyph.getD g.toNat g.toNat

/-- The row below, wrapping past the last (R223, R225, R227). -/
def nextRow (p : Params) (cy : Nat) : Nat := (cy + 1) % p.rows

/-- `advance`, the column after it (R223). -/
def advanceX (p : Params) (cx : Nat) : Nat := if p.cols ≤ cx + 1 then 0 else cx + 1

/-- `advance`, the row after it (R223). -/
def advanceY (p : Params) (cx cy : Nat) : Nat := if p.cols ≤ cx + 1 then nextRow p cy else cy

/-- The groups of a word in order from a cursor (R221); escape ends the word. -/
def decodeGroups (p : Params) : List Code → Nat → Nat → CharacterResult
  | [], cx, cy => { calls := [], cx := cx, cy := cy, escaped := false }
  | g :: rest, cx, cy =>
    if g = p.chEsc then { calls := [], cx := cx, cy := cy, escaped := true }
    else if g = p.chNul then decodeGroups p rest cx cy
    else if g = p.chCr then decodeGroups p rest 0 cy
    else if g = p.chLf then decodeGroups p rest cx (nextRow p cy)
    else if g = p.chHsh then decodeGroups p rest (advanceX p cx) (advanceY p cx cy)
    else if g = p.chVsh then decodeGroups p rest cx (nextRow p cy)
    else
      let r := decodeGroups p rest (advanceX p cx) (advanceY p cx cy)
      { r with calls := .drawGlyph cx cy (glyphIndex p g) :: r.calls }

/-- The three code groups of a word, most significant first (R220). -/
def codeGroups (x : Word) : List Code := [x.extractLsb' 12 6, x.extractLsb' 6 6, x.extractLsb' 0 6]

/-! ### The two decoders -/

/-- The surface calls of one decoded word: its own, then one `present()`, at the end of the trace (R212,
R213). -/
def State.emit (s : State) (calls : List SurfaceCall) : State :=
  { s with trace := s.trace ++ calls ++ [.present] }

/-- `decode_display(x)` (R213). -/
def decodeDisplay (x : Word) (s : State) : State :=
  match s.mode with
  | .parameter => { s with mode := modeOfCode (nextModeField x) }.emit []
  | .point => { s with mode := modeOfCode (nextModeField x) }.emit [pointCall s.params x]
  | .vector =>
    { s with mode := if x.getLsbD 17 then .parameter else .vector }.emit [vectorCall s.params x]
  | .character =>
    let r := decodeGroups s.params (codeGroups x) s.curX s.curY
    { s with
      curX := r.cx
      curY := r.cy
      mode := if r.escaped then .parameter else .character }.emit r.calls

/-- The teleprinter's decoding: Character mode with its own cursor and no mode register (R232). -/
def decodeTeleprinter (x : Word) (s : State) : State :=
  let r := decodeGroups s.params (codeGroups x) s.tcurX s.tcurY
  { s with tcurX := r.cx, tcurY := r.cy }.emit r.calls

end Sys2Proof.Machine
end

