-- ==== Sys2Proof/Machine/Schedule.lean ====
section
/-! DEFINITION. The agents besides the CPU, when each may step, and whose turn it is
(spec/43_iot_mailbox.md R190 to R194, spec/40_cycle.md R101, R112, spec/70_reset_and_hazards.md R275,
R276, spec/20_memory.md R59, R61). -/

namespace Sys2Proof.Machine

/-! ### The consumer -/

/-- The consumer's step is enabled: PRUN is 1 and the configured peripheral's mailbox is full (R191). -/
def consumerReady (s : State) : Bool :=
  s.prun && match s.params.peripheral with
    | .none => false
    | .display => s.mbxDsp != 0
    | .teleprinter => s.mbxTty != 0

/-- The consumer's take: read, clear and decode as one step (R191). Without a peripheral there is no
consumer (R190). -/
def consumerTake (s : State) : State :=
  match s.params.peripheral with
  | .none => s
  | .display => decodeDisplay s.mbxDsp { s with mbxDsp := 0 }
  | .teleprinter => decodeTeleprinter s.mbxTty { s with mbxTty := 0 }

/-! ### The host -/

/-- The host stops the CPU (R112). -/
def hostStopCpu (s : State) : State := { s with run := false }

/-- The host stops the peripheral (R194). -/
def hostStopPeripheral (s : State) : State := { s with prun := false }

/-! ### Turns -/

/-- The CPU is neither halted nor stopped nor faulted (R101). -/
def cpuRunning (s : State) : Bool := s.run && s.fault.isNone

/-- The CPU's step is enabled: it runs, and its instruction does not hold (R101). -/
def cpuEnabled (s : State) : Bool := cpuRunning s && !cpuHolds s

/-- No agent has an enabled step, and none ever will (R276). A CPU that holds is still running. -/
def runEnded (s : State) : Bool := !cpuRunning s && !consumerReady s

/-- The free turns the CPU has left before the consumer's: the number drawn, or a fresh one (R193; log 8). -/
def waitLeft (s : State) : Nat := s.wait.getD (Config.drawWait s.draws)

/-- The state once `waitLeft` has been drawn and one free turn of it is used up; the consumer's turn ends it. -/
def State.afterWait (s : State) : State :=
  { s with
    wait := if waitLeft s = 0 then none else some (waitLeft s - 1)
    draws := if s.wait.isNone then s.draws + 1 else s.draws }

/-- The state with no wait: what is left of a number is dropped once the consumer's step is not enabled, because
fairness promises a take only to a step that stays enabled (R193; log 8). -/
def State.withoutWait (s : State) : State := { s with wait := none }

/-- A turn, and the state once it is known to be that one's. -/
structure TurnChoice where
  turn : Turn
  state : State
  deriving DecidableEq, Repr

/-- The turn when the environment has fixed none. While both the CPU and the consumer may step, the turns are the
CPU's until its wait is over and then the consumer's, so that a step that stays enabled is taken in the end (R61,
R193, R275; log 8). Where one of them may step the turn is its own and no wait is left, so that the next word in
the mailbox starts a fresh one. When the CPU holds and no consumer can take, the CPU retries (R100, R188). When
the run has ended, the standard host stops the peripheral (R276; log 26). -/
def freeTurn (s : State) : TurnChoice :=
  if consumerReady s then
    if cpuEnabled s then
      { turn := if waitLeft s = 0 then .consumer else .cpu, state := s.afterWait }
    else { turn := .consumer, state := s.withoutWait }
  else if cpuRunning s then { turn := .cpu, state := s.withoutWait }
  else { turn := .hostStopPeripheral, state := s.withoutWait }

/-- The next turn: the environment's, or a free one (log 8). -/
def nextTurn (s : State) : TurnChoice :=
  match s.schedule with
  | t :: rest => { turn := t, state := { s with schedule := rest } }
  | [] => freeTurn s

/-- Nothing is left to happen: the environment has fixed no further turn, the run has ended, and the peripheral
is stopped (R276; log 26). -/
def allDone (s : State) : Bool := s.schedule.isEmpty && runEnded s && !s.prun

/-- A turn of the consumer: a take when it is enabled, else nothing (R191; log 25). -/
def consumerTurn (s : State) : State := if consumerReady s then consumerTake s else s

end Sys2Proof.Machine
end

