-- ==== Sys2Proof/Machine/Step.lean ====
section
/-! DEFINITION. One step of the machine: the step of the agent whose turn it is (spec/20_memory.md R59, R61,
spec/40_cycle.md R100 to R103, spec/70_reset_and_hazards.md R275, R276). -/

namespace Sys2Proof.Machine

/-- A CPU step: the instruction that the word at PC decodes to (R102, R103). -/
def cpuStep (s : State) : Host.Outcome State Fault Refusal := exec (decode s.params s.fetchWord) s

/-- One turn of an agent or of the host. A turn of the CPU when it has no step changes nothing (R101;
log 25). -/
def takeTurn (turn : Turn) (s : State) : Host.Outcome State Fault Refusal :=
  match turn with
  | .cpu => if cpuRunning s then cpuStep s else .next s
  | .consumer => .next (consumerTurn s)
  | .hostStopCpu => .next (hostStopCpu s)
  | .hostStopPeripheral => .next (hostStopPeripheral s)

/-- One step: the next turn, the host's stops after the end of the run among them (R112, R194), and nothing
once all is done (R276). -/
def step (s : State) : Host.Outcome State Fault Refusal :=
  if allDone s then .fault .runEnded else takeTurn (nextTurn s).turn (nextTurn s).state

/-- The state with an instruction's word at PC, the CPU able to step and the next turn its own (log 11). -/
def State.withFetchWord (s : State) (_nbits w : Nat) : State :=
  { s.writeWord s.pc (BitVec.ofNat 18 w) with
    run := true
    fault := none
    schedule := .cpu :: s.schedule }

end Sys2Proof.Machine
end

