-- ==== Sys2Proof/Machine/Launch.lean ====
section
/-! DEFINITION. Loading and launching: how a run begins (spec/20_memory.md R55, spec/60_exceptions.md R257,
R267, spec/70_reset_and_hazards.md R270 to R275). -/

namespace Sys2Proof.Machine

/-- What the host and the unspecified values fix at launch: the parameters (R7), `AC0` and `L0` (R272), the
unspecified IR, EA and MB (R270), the unspecified contents of the cells no pair names (R55), and the turns
the environment has fixed (log 8). -/
structure LaunchChoice where
  params : Params
  ac0 : Word
  link0 : Bit
  ir0 : Word
  ea0 : Addr
  mb0 : Word
  cells : Memory
  schedule : List Turn
  deriving DecidableEq, Repr

/-- One pair of a dump (R55): an address past the memory or a value wider than a word is a load error
(R251, R257), the address tested first (log 17). -/
def loadPair (m : Memory) (pair : Nat × Nat) : Except LoadError Memory :=
  if memorySize ≤ pair.1 then .error .loadAddress
  else if 2 ^ 18 ≤ pair.2 then .error .loadValue
  else .ok (Memory.write m pair.1 (BitVec.ofNat 18 pair.2))

/-- The pairs of a dump in order, so that a later pair wins; the first bad pair ends the load (R55). -/
def loadPairs (m : Memory) : List (Nat × Nat) → Except LoadError Memory
  | [] => .ok m
  | pair :: rest =>
    match loadPair m pair with
    | .ok m' => loadPairs m' rest
    | .error e => .error e

/-- PRUN at launch (R33). -/
def launchPrun (p : Params) : Bool :=
  match p.peripheral with
  | .none => false
  | .display => true
  | .teleprinter => true

/-- Launch: the state of R270 after a successful load of the instruction region and then the data region, or
the load error, and then no run begins (R257). -/
def launch (c : LaunchChoice) (instructions data : List (Nat × Nat)) : Except LoadError State :=
  match loadPairs c.cells (instructions ++ data) with
  | .error e => .error e
  | .ok m => .ok
      { mem := m
        ac := c.ac0
        link := c.link0
        pc := c.params.startPc
        ir := c.ir0
        ea := c.ea0
        mb := c.mb0
        run := true
        cycles := 0
        fault := none
        mbxTty := 0
        mbxDsp := 0
        overwrites := 0
        prun := launchPrun c.params
        mode := .parameter
        curX := 0
        curY := 0
        tcurX := 0
        tcurY := 0
        trace := []
        params := c.params
        draws := 0
        wait := none
        schedule := c.schedule }

/-- The choices that State.reset stands for: the default parameters, and the values the model names for what
the spec leaves unspecified (log 2, log 3, log 4, log 21). -/
def LaunchChoice.default : LaunchChoice :=
  { params := Params.default, ac0 := 0, link0 := 0, ir0 := 0, ea0 := 0, mb0 := 0, cells := [], schedule := [] }

end Sys2Proof.Machine
end

