-- ==== Sys2Proof/Safety.lean ====
section
/-! DEFINITION. The states a run can be in, in the terms claims use. -/

namespace Sys2Proof.Machine

/-- What every state of a run satisfies: parameters of R7's kind, the memory in canonical form, both cursors
inside the character grid (spec/10_state.md R35, R36), no peripheral running after a fault
(spec/60_exceptions.md R253) or without being configured (spec/10_state.md R33). -/
structure State.Inv (s : State) : Prop where
  params : s.params.wf = true
  mem : Memory.wf s.mem
  curX : s.curX < s.params.cols
  curY : s.curY < s.params.rows
  tcurX : s.tcurX < s.params.cols
  tcurY : s.tcurY < s.params.rows
  faultStops : s.fault ≠ none → s.prun = false
  noPeripheral : s.params.peripheral = .none → s.prun = false

/-! ### The parts of a claim about one instruction -/

/-- A memory-reference word as spec/41_memref.md writes it: `base | I << 13 | Y`. -/
def memrefBits (base : Word) (ind : Bool) (y : Addr) : Word :=
  base ||| (if ind then 0o020000 else 0) ||| y.setWidth 18

/-- What every completed memory-reference step does besides its own act: the fetch (R102), the latches (R113)
and the cost (R109). -/
def State.afterMemref (s : State) (cost : Nat) (ind : Bool) (y : Addr) : State :=
  { s with
    ir := s.fetchWord
    pc := s.pc + 1
    ea := effectiveAddress ind y s
    mb := memoryBuffer ind y s
    cycles := s.cycles + (cost + if ind then 1 else 0) }

/-- What every completed step without an effective address does besides its own act, but for the latches,
which it leaves unspecified (R102, R106, R109). -/
def State.afterRegister (s : State) (cost : Nat) : State :=
  { s with ir := s.fetchWord, pc := s.pc + 1, cycles := s.cycles + cost }

/-- What every faulting step does, latches apart (R253): the fetch, FAULT and PRUN. -/
def State.afterFault (s : State) (cause : FaultCause) (word : Word) : State :=
  { s with
    ir := s.fetchWord
    pc := s.pc + 1
    fault := some { cause := cause, word := word, pc := s.pc }
    prun := false }

/-- Equal but for the latches EA and MB and the model's own count of free values, about which no claim may say
anything after an IOT or OPR step (R106). -/
def UpToLatches (t u : State) : Prop := { t with ea := u.ea, mb := u.mb, draws := u.draws } = u

/-- Equal but for the memory. -/
def UpToMemory (t u : State) : Prop := { t with mem := u.mem } = u

/-- From `s` to `t` the word at `a` becomes `v` and every other word stays. -/
def StoresOnly (s t : State) (a : Addr) (v : Word) : Prop :=
  t.readWord a = v ∧ ∀ b, b ≠ a → t.readWord b = s.readWord b

/-- A completed operate step that leaves this accumulator, Link, PC and RUN, and nothing else changed but IR,
CYCLES and the unspecified latches (R153). -/
def OperateLeaves (i : Instr) (s : State) (ac : Word) (link : Bit) (pc : Addr) (run : Bool) : Prop :=
  ∃ t, exec i s = .next t ∧
    UpToLatches t { s.afterRegister s.params.cyc.opr with ac := ac, link := link, pc := pc, run := run }

/-- The instruction that a chain of XCTs from a word ends in, within `n` words; `none` when it is longer
(R110). -/
def chainEnd : Nat → Word → State → Option Instr
  | 0, _, _ => none
  | n + 1, w, s =>
    if opField w = 8 then chainEnd n (memoryBuffer (indirectField w) (addressField w) s) s
    else some (decode s.params w)

/-- The word that a chain of XCTs from a word ends in, or the one past its `n`-th when it is longer (R256). -/
def chainWord : Nat → Word → State → Word
  | 0, w, _ => w
  | n + 1, w, s =>
    if opField w = 8 then chainWord n (memoryBuffer (indirectField w) (addressField w) s) s else w

/-- What the XCTs of such a chain cost themselves: CYC[XCT] and one for indirection, each (R109). -/
def chainCost : Nat → Word → State → Nat
  | 0, _, _ => 0
  | n + 1, w, s =>
    if opField w = 8 then
      s.params.cyc.xct + indirectCost (indirectField w) +
        chainCost n (memoryBuffer (indirectField w) (addressField w) s) s
    else 0

/-- The 19-bit ring `L:AC` (R154). -/
def ring (link : Bit) (ac : Word) : BitVec 19 := link ++ ac

/-- The accumulator's part of the ring. -/
def ringAc (r : BitVec 19) : Word := r.extractLsb' 0 18

/-- The Link's part of the ring. -/
def ringLink (r : BitVec 19) : Bit := r.extractLsb' 18 1

/-- A code that is none of the six control codes (R221). -/
def ordinaryCode (p : Params) (g : Code) : Bool :=
  !([p.chNul, p.chCr, p.chLf, p.chHsh, p.chVsh, p.chEsc].contains g)

end Sys2Proof.Machine
end

