-- ==== Sys2Proof/WellFormed.lean ====
section
/-! DEFINITION. Which terms of Instr are instructions of the table: an `opr` must not carry the bits of a
named operate word, which has its own row, and an `otherIot` must not carry one of the three recognized
IOT words (spec/30_encoding.md R85, R87; spec/42_operate.md R165). Every other term is an instruction. -/

namespace Sys2Proof

/-- The three recognized IOT words (R180). -/
def recognizedIot (p : Params) (w : Word) : Bool :=
  w == p.iotKrb || w == p.iotTls || w == p.iotDsp

/-- The term stands for the row its constructor names. -/
def Instr.wellFormed (p : Params) (i : Instr) : Bool :=
  match i with
  | .otherIot rest => !recognizedIot p (otherIotWord rest)
  | .opr bits => !namedOperates.contains bits
  | .cal _ _ | .dac _ _ | .jms _ _ | .dzm _ _ | .lac _ _ | .xor _ _ | .add _ _ | .tad _ _ | .xct _ _
  | .isz _ _ | .and _ _ | .sad _ _ | .jmp _ _ | .opcode13 _ | .krb | .tls | .dsp | .law _
  | .nop | .cma | .cml | .oas | .ral | .rar | .hlt | .sma | .sza | .snl | .skp | .spa | .sna | .szl
  | .rtl | .rtr | .cll | .stl | .rcl | .rcr | .cla | .clc | .las | .glk => true

end Sys2Proof
end

