-- ==== Sys2Proof/Certificates/Slice0/Obligations.lean ====
section
/-! DEFINITION. The statements for the provers, from the numbered rules of spec/. Each definition's docstring is
its statement in words, with the rules it cites. -/

open Sys2Proof Sys2Proof.Machine

/-- For parameters of R7's kind and every well-formed instruction, with every operand at every value, decode of encode is the instruction. (30_encoding.md R81, R83, R86, R88; 42_operate.md R165; 43_iot_mailbox.md R180) -/
def Obligations.DecodeOfEncodeIsTheInstruction : Prop :=
  ∀ (p : Params) (i : Instr), p.wf = true → i.wellFormed p = true → decode p (encode p i) = i

/-- For all parameters and all 18-bit words, encode of decode is the word, and the decoded instruction is well-formed: decoding is total and drops no bit. (30_encoding.md R80, R85, R88) -/
def Obligations.EncodeOfDecodeIsTheWord : Prop :=
  ∀ (p : Params) (w : Word), encode p (decode p w) = w ∧ (decode p w).wellFormed p = true

/-- Under the default parameters, words of each class written out from the spec's tables decode to the instructions or the illegal rows that the table names for them. That an illegal word decodes to an instruction of its own row, whose meaning is the fault, is the model's (log 13, DEDUCED): so 0o640000 is the row of BAD_OPCODE (E4), 0o700314 the row of BAD_IOT (E6), and 0o760123 the row LAW, which under these parameters, with OPT_LAW false, faults BAD_OPERATE as E8's LAW word does. (95_test_vectors.md E1, E2, E3, E4, E5, E6, E7, E8; 30_encoding.md R81, R83; 42_operate.md R164, R165) -/
def Obligations.WrittenOutWordsDecode : Prop :=
  decode Params.default 0o300000#18 = .add false 0 ∧
    decode Params.default 0o362100#18 = .tad true 0o2100#13 ∧
    decode Params.default 0o017777#18 = .cal false 0o17777#13 ∧
    decode Params.default 0o640000#18 = .opcode13 0 ∧
    decode Params.default 0o700312#18 = .krb ∧
    decode Params.default 0o700314#18 = .otherIot 0o00314#14 ∧
    decode Params.default 0o754000#18 = .opr 0o14000#13 ∧
    decode Params.default 0o742020#18 = .rtr ∧
    decode Params.default 0o760123#18 = .law 0o00123#13

/-- A word's decoding faults exactly when OP is 13, or OP is 14 and it is none of the three IOT words, or OP is 15 and R151 rejects it, with the cause of R251; executing an illegal word at any state leaves the fetch, the fault record with that cause, that word and its address, and PRUN cleared, and nothing else; every other word is an instruction that no illegal cause belongs to. That R151's tests (b) and (c) are made only with bit 13 clear, so that a LAW word runs with OPT_LAW whatever its low bits, is the model's choice (log 27, DESIGN CHOICE); that an illegal word is an instruction and its fault a next state are logs 13 and 10 (DEDUCED); that EA and MB stay after it is log 22 (DEDUCED), R253 read over R106. (30_encoding.md R87; 42_operate.md R151, R164; 60_exceptions.md R253) -/
def Obligations.IllegalWordsAreExactlyThese : Prop :=
  ∀ (p : Params) (w : Word),
    illegalCause p (decode p w) =
      (if w.extractLsb' 14 4 = 13#4 then some .badOpcode
       else if w.extractLsb' 14 4 = 14#4 then
         (if w = p.iotKrb ∨ w = p.iotTls ∨ w = p.iotDsp then none else some .badIot)
       else if w.extractLsb' 14 4 = 15#4 then
         (if (w.getLsbD 13 = true ∧ p.optLaw = false) ∨
             (w.getLsbD 13 = false ∧ w.getLsbD 3 = true ∧ w.getLsbD 4 = true) ∨
             (w.getLsbD 13 = false ∧ w.getLsbD 10 = true ∧ w.getLsbD 3 = false ∧ w.getLsbD 4 = false)
          then some .badOperate else none)
       else none) ∧
    ∀ (s : State) (c : FaultCause), s.params = p → illegalCause p (decode p w) = some c →
      exec (decode p w) s = .next (s.afterFault c w)

/-- An OP = 13 word takes BAD_OPCODE, an unrecognized IOT word BAD_IOT, an operate word that rotates both ways or twice in no direction BAD_OPERATE, and a LAW word BAD_OPERATE while OPT_LAW is false: the fetch, the fault record with the word and its address, PRUN cleared, and nothing else. That the fault is a next state is log 10 (DEDUCED), that EA and MB then stay log 22 (DEDUCED), R253 read over R106. (60_exceptions.md R252, R253, R254, R255; 42_operate.md R151, R164) -/
def Obligations.IllegalInstructionsTakeTheirFault : Prop :=
  ∀ s : State,
    (∀ rest, exec (.opcode13 rest) s = .next (s.afterFault .badOpcode (0o640000 + rest.setWidth 18))) ∧
    (∀ rest, exec (.otherIot rest) s = .next (s.afterFault .badIot (0o700000 + rest.setWidth 18))) ∧
    (∀ bits : BitVec 13,
      (bits.getLsbD 3 = true ∧ bits.getLsbD 4 = true) ∨
        (bits.getLsbD 10 = true ∧ bits.getLsbD 3 = false ∧ bits.getLsbD 4 = false) →
      exec (.opr bits) s = .next (s.afterFault .badOperate (0o740000 + bits.setWidth 18))) ∧
    (∀ k, s.params.optLaw = false →
      exec (.law k) s = .next (s.afterFault .badOperate (0o760000 + k.setWidth 18)))

/-- When the fetched word is illegal the step leaves the fetch, the fault record (cause, that word, the address fetched from) and PRUN = 0; when a chain of XCTs within the depth limit ends in an illegal word the record holds that nested word and the outermost XCT's address, and EA and MB keep the outermost XCT's latches; nothing else changes, CYCLES and RUN included. That the fault is a next state is log 10 (DEDUCED), that EA and MB stay after a direct fault log 22 (DEDUCED), R253 read over R106. (60_exceptions.md R253; 40_cycle.md R109, R110, R113) -/
def Obligations.FaultingStepLeavesExactlyThis : Prop :=
  ∀ (s : State) (c : FaultCause),
    (illegalCause s.params (decode s.params s.fetchWord) = some c →
      cpuStep s = .next (s.afterFault c s.fetchWord)) ∧
    (∀ ind y j, chainEnd (s.params.xctMaxDepth - 1) (memoryBuffer ind y s) s = some j →
      illegalCause s.params j = some c →
      exec (.xct ind y) s =
        .next { s.afterFault c (chainWord (s.params.xctMaxDepth - 1) (memoryBuffer ind y s) s) with
          ea := effectiveAddress ind y s
          mb := memoryBuffer ind y s })

/-- If the cell at y holds XCT y, executing XCT y records XCT_DEPTH with that word and the address of the outermost XCT, keeps its latches, and changes nothing else. That the fault is a next state is log 10 (DEDUCED). (60_exceptions.md R256; 70_reset_and_hazards.md R286; 41_memref.md R130) -/
def Obligations.SelfExecutingXctFaults : Prop :=
  ∀ (s : State) (y : Addr), 1 ≤ s.params.xctMaxDepth → s.readWord y = 0o400000 ||| y.setWidth 18 →
    exec (.xct false y) s =
      .next { s.afterFault .xctDepth (s.readWord y) with ea := y, mb := s.readWord y }

/-- When the CPU is running and the word at PC decodes to i: on a turn fixed for the CPU the step is exec of i (that turn used up); with no turn fixed and the consumer not ready it is exec of i, and no wait is left; with no turn fixed and the consumer ready it is exec of i as long as the CPU's wait is not over and i does not hold, and the consumer's take otherwise, which leaves no wait. exec itself moves PC past the word. The schedule and the wait, a free number, are the model's (log 8, DESIGN CHOICE), and so is exec's starting before the fetch (log 12, DESIGN CHOICE). (40_cycle.md R100, R101, R103; 43_iot_mailbox.md R191, R193; 70_reset_and_hazards.md R275) -/
def Obligations.StepRunsTheDecodedInstruction : Prop :=
  ∀ (s : State) (i : Instr), decode s.params s.fetchWord = i → s.run = true → s.fault = none →
    (∀ rest, s.schedule = .cpu :: rest → step s = exec i { s with schedule := rest }) ∧
    (s.schedule = [] → consumerReady s = false → step s = exec i { s with wait := none }) ∧
    (s.schedule = [] → consumerReady s = true → cpuHolds s = true →
      step s = .next (consumerTake { s with wait := none })) ∧
    (s.schedule = [] → consumerReady s = true → cpuHolds s = false →
      let drawn := match s.wait with
        | none => s.draws + 1
        | some _ => s.draws
      step s = match s.wait.getD (Config.drawWait s.draws) with
        | 0 => .next (consumerTake { s with wait := none, draws := drawn })
        | n + 1 => exec i { s with wait := some n, draws := drawn })

/-- A step answers the fault runEnded exactly when RUN is 0 or a fault is recorded, PRUN is 0 and the schedule holds no further turn; in every other state there is a next state, also where the CPU holds with no consumer (log 9, DEDUCED: it retries) and where only turns of the host or of agents without a step are left (logs 25 and 26, DESIGN CHOICE). That the end of the run is a fault outcome of step is log 10 (DEDUCED). No step is refused. (70_reset_and_hazards.md R276; 40_cycle.md R101, R112; 43_iot_mailbox.md R191, R194) -/
def Obligations.StepStopsExactlyWhenTheRunHasEnded : Prop :=
  ∀ s : State,
    (step s = .fault .runEnded ↔
      (s.run = false ∨ s.fault ≠ none) ∧ s.prun = false ∧ s.schedule = []) ∧
    (step s = .fault .runEnded ∨ ∃ t, step s = .next t)

/-- In every state, the run ended or not: on a turn fixed for the host's CPU stop the step leaves the state with RUN 0, on one for its peripheral stop with PRUN 0, and nothing else changed but that turn used up. With no turn fixed and the CPU halted, stopped or faulted, the step is the consumer's take while it is ready, and once it is not, while PRUN is 1, the standard host's stop of the peripheral, and no wait is left after either. The schedule, the wait and that the host is the standard one where it is empty are the model's (logs 8 and 26, DESIGN CHOICE). (40_cycle.md R112; 43_iot_mailbox.md R194; 60_exceptions.md R267; 70_reset_and_hazards.md R276) -/
def Obligations.HostStopsClearOnlyTheirFlag : Prop :=
  ∀ s : State,
    (∀ rest, s.schedule = .hostStopCpu :: rest → step s = .next { s with run := false, schedule := rest }) ∧
    (∀ rest, s.schedule = .hostStopPeripheral :: rest →
      step s = .next { s with prun := false, schedule := rest }) ∧
    (s.schedule = [] → s.run = false ∨ s.fault ≠ none →
      (consumerReady s = true → step s = .next (consumerTake { s with wait := none })) ∧
      (consumerReady s = false → s.prun = true → step s = .next { s with prun := false, wait := none }))

/-- In every infinite run, from every state in which the consumer's step is enabled there is a later one, or that one, in which it is no longer enabled or the turn is its own, and the same of the CPU's step: so a step that stays enabled is taken. And nothing more is forced: from any state with no turn fixed, every infinite order of enabled steps of the two agents in which the consumer's step never stays enabled for ever untaken is the order of a run of the model, for some choice of the free numbers, each supplied (as wait) only where the model draws a fresh one; so a consumer whose step is disabled again and again, by zero words under Overwrite, need never take. The same of the CPU's step is no premise, because no two takes follow one another. That the schedule is finite, and the wait a number, whatever number, dropped when the consumer's step is not enabled, is the model's (log 8, DESIGN CHOICE). (43_iot_mailbox.md R193; 92_eei_decisions.md D39; 20_memory.md R61) -/
def Obligations.RunsAreExactlyTheWeaklyFairOrders : Prop :=
  (∀ r : Nat → State, (∀ n, step (r n) = .next (r (n + 1))) →
    ∀ n, (consumerReady (r n) = true →
        ∃ m, n ≤ m ∧ (consumerReady (r m) = false ∨ (nextTurn (r m)).turn = .consumer)) ∧
      (cpuEnabled (r n) = true → ∃ m, n ≤ m ∧ (cpuEnabled (r m) = false ∨ (nextTurn (r m)).turn = .cpu))) ∧
    ∀ (order : Nat → Turn) (r : Nat → State), (r 0).schedule = [] →
      (∀ n, (order n = .cpu ∧ cpuEnabled (r n) = true) ∨ (order n = .consumer ∧ consumerReady (r n) = true)) →
      (∀ n, takeTurn (order n) (r n) = .next (r (n + 1))) →
      (∀ n, ∃ m, n ≤ m ∧ (consumerReady (r m) = false ∨ order m = .consumer)) →
      ∃ (fresh : Nat → Nat) (wait : Nat → Option Nat), wait 0 = none ∧
        ∀ n, let s := { r n with wait := some ((wait n).getD (fresh n)) }
          (nextTurn s).turn = order n ∧ step s = .next { r (n + 1) with wait := wait (n + 1) }

/-- When RUN is 0 or FAULT is not none, every step leaves MEM, AC, L, PC, IR, EA, MB, CYCLES, FAULT and OVERWRITES as they were, and the CPU still has no step. (40_cycle.md R101, R111; 60_exceptions.md R266) -/
def Obligations.HaltedCpuStaysAsItIs : Prop :=
  ∀ s t : State, s.run = false ∨ s.fault ≠ none → step s = .next t →
    t.mem = s.mem ∧ t.ac = s.ac ∧ t.link = s.link ∧ t.pc = s.pc ∧ t.ir = s.ir ∧ t.ea = s.ea ∧ t.mb = s.mb ∧
      t.cycles = s.cycles ∧ t.fault = s.fault ∧ t.overwrites = s.overwrites ∧
      (t.run = false ∨ t.fault ≠ none)

/-- FAULT is none after launch, whatever is loaded and chosen; no step from a state with a fault recorded changes the record; and in a state a run can reach, which satisfies Inv, what is left then is nothing at all, or a fixed turn that changes only the schedule, and RUN when it is the host's stop of the CPU. That the end is a fault outcome of step and that a fixed turn without an enabled step is used up are the model's (logs 10, DEDUCED, 25 and 26, DESIGN CHOICE). (10_state.md R29; 60_exceptions.md R253; 70_reset_and_hazards.md R276) -/
def Obligations.FaultRecordIsNeverCleared : Prop :=
  (∀ c ins dat s, launch c ins dat = .ok s → s.fault = none) ∧
    (∀ s t : State, s.fault ≠ none → step s = .next t → t.fault = s.fault) ∧
    ∀ s : State, s.Inv → s.fault ≠ none →
      (s.schedule = [] → step s = .fault .runEnded) ∧
      ∀ turn rest, s.schedule = turn :: rest →
        step s = .next { s with schedule := rest, run := if turn = .hostStopCpu then false else s.run }

/-- For every instruction, well-formed or not, and every state, exec answers a next state, and it is one of three: the state before, unchanged, and then a mailbox is full under Block; a completed step, with IR the fetched word, FAULT and PRUN as they were and CYCLES not less than before; or a fault recorded with the address fetched from, and then nothing else is changed but the fetch, PRUN and the latches. That a hold and a fault are next states is the model's (logs 9 and 10, DEDUCED). (40_cycle.md R100; 60_exceptions.md R250, R253, R258, R260) -/
def Obligations.NoInstructionStopsTheMachine : Prop :=
  ∀ (i : Instr) (s : State),
    (exec i s = .next s ∧ s.params.mailboxPolicy = .block ∧ (s.mbxTty ≠ 0 ∨ s.mbxDsp ≠ 0)) ∨
    (∃ t, exec i s = .next t ∧ t.ir = s.fetchWord ∧ t.fault = s.fault ∧ t.prun = s.prun ∧ s.cycles ≤ t.cycles) ∨
    ∃ c w ea mb, exec i s = .next { s.afterFault c w with ea := ea, mb := mb }

/-- The effective address is Y when I = 0 and the word at Y modulo 2^13 when I = 1, whatever that word's higher bits; the buffer is the word there. (40_cycle.md R104, R105; 70_reset_and_hazards.md R283) -/
def Obligations.EffectiveAddressFollowsOneLevel : Prop :=
  ∀ (s : State) (y : Addr),
    effectiveAddress false y s = y ∧
    (effectiveAddress true y s).toNat = (s.readWord y).toNat % 2 ^ 13 ∧
    ∀ ind, memoryBuffer ind y s = s.readWord (effectiveAddress ind y s)

/-- The word base|I<<13|Y decodes to CAL; in every state with a canonical memory CAL completes: the cell at the effective address becomes PC + 1 and no other word changes, PC is the address after the cell, AC is the cell's old word (Latched) or the return address (Stored), L and everything else stay. (R121) -/
def Obligations.CalCallsAndLoads : Prop :=
  (∀ p ind y, decode p (memrefBits 0o000000 ind y) = .cal ind y) ∧
    ∀ (ind : Bool) (y : Addr) (s : State), Memory.wf s.mem →
      ∃ t, exec (.cal ind y) s = .next t ∧
        UpToMemory t { s.afterMemref s.params.cyc.cal ind y with
          pc := effectiveAddress ind y s + 1
          ac := if s.params.calAcSource = .latched then memoryBuffer ind y s else (s.pc + 1).setWidth 18 } ∧
        StoresOnly s t (effectiveAddress ind y s) ((s.pc + 1).setWidth 18)

/-- Their words decode to them; in every state with a canonical memory each completes with its cell at the effective address written (AC, or 0), every other word of memory, AC, L and everything else unchanged but the fetch, the latches and the cost. (R122; R124) -/
def Obligations.DacAndDzmStore : Prop :=
  (∀ p ind y, decode p (memrefBits 0o040000 ind y) = .dac ind y) ∧
    (∀ p ind y, decode p (memrefBits 0o140000 ind y) = .dzm ind y) ∧
    ∀ (ind : Bool) (y : Addr) (s : State), Memory.wf s.mem →
      (∃ t, exec (.dac ind y) s = .next t ∧ UpToMemory t (s.afterMemref s.params.cyc.dac ind y) ∧
        StoresOnly s t (effectiveAddress ind y s) s.ac) ∧
      (∃ t, exec (.dzm ind y) s = .next t ∧ UpToMemory t (s.afterMemref s.params.cyc.dzm ind y) ∧
        StoresOnly s t (effectiveAddress ind y s) 0)

/-- Its word decodes to it; in every state with a canonical memory JMS completes: the cell at the effective address becomes (L << 17) | (PC + 1), or PC + 1 when JMS_SAVES_LINK is false, no other word changes, PC is the address after the cell, L and AC stay; a JMP I through that cell goes to the return address and leaves L as it then is. (R123) -/
def Obligations.JmsStoresTheReturnWord : Prop :=
  (∀ p ind y, decode p (memrefBits 0o100000 ind y) = .jms ind y) ∧
    ∀ (ind : Bool) (y : Addr) (s : State), Memory.wf s.mem →
      ∃ t, ∃ v : Word, exec (.jms ind y) s = .next t ∧
        UpToMemory t { s.afterMemref s.params.cyc.jms ind y with pc := effectiveAddress ind y s + 1 } ∧
        StoresOnly s t (effectiveAddress ind y s) v ∧
        v.toNat = (if s.params.jmsSavesLink then s.link.toNat * 2 ^ 17 else 0) + (s.pc + 1).toNat ∧
        ∃ u, exec (.jmp true (effectiveAddress ind y s)) t = .next u ∧ u.pc = s.pc + 1 ∧ u.link = t.link

/-- Their words decode to them; in every state LAC leaves AC = the buffer, XOR AC xor the buffer, AND AC and the buffer; L, memory and everything else are unchanged but the fetch, the latches and the cost. (R125; R126; R127) -/
def Obligations.LoadAndLogicResults : Prop :=
  (∀ p ind y, decode p (memrefBits 0o200000 ind y) = .lac ind y) ∧
    (∀ p ind y, decode p (memrefBits 0o240000 ind y) = .xor ind y) ∧
    (∀ p ind y, decode p (memrefBits 0o500000 ind y) = .and ind y) ∧
    ∀ (ind : Bool) (y : Addr) (s : State),
      exec (.lac ind y) s =
        .next { s.afterMemref s.params.cyc.lac ind y with ac := memoryBuffer ind y s } ∧
      exec (.xor ind y) s =
        .next { s.afterMemref s.params.cyc.xor ind y with ac := s.ac ^^^ memoryBuffer ind y s } ∧
      exec (.and ind y) s =
        .next { s.afterMemref s.params.cyc.and ind y with ac := s.ac &&& memoryBuffer ind y s }

/-- Its word decodes to it; in every state ADD completes with AC, as a number, the sum with end-around carry, minus zero normalized in the operands, in the result or not at all as ADD_NEGZERO says; L is 1 after a carry out of bit 17 and unchanged otherwise; nothing else changes but the fetch, the latches and the cost. (R128) -/
def Obligations.AddIsOnesComplementWithEndAroundCarry : Prop :=
  (∀ p ind y, decode p (memrefBits 0o300000 ind y) = .add ind y) ∧
    ∀ (ind : Bool) (y : Addr) (s : State),
      let operand : Word → Nat := fun w =>
        if s.params.addNegzero = .normalizeOperands ∧ w = 0o777777 then 0 else w.toNat
      let sum := operand s.ac + operand (memoryBuffer ind y s)
      let folded := if 2 ^ 18 ≤ sum then sum - 2 ^ 18 + 1 else sum
      ∃ r : Word, exec (.add ind y) s =
          .next { s.afterMemref s.params.cyc.add ind y with
            ac := r
            link := if 2 ^ 18 ≤ sum then 1 else s.link } ∧
        r.toNat = if s.params.addNegzero = .normalizeResult ∧ folded = 0o777777 then 0 else folded

/-- In every state the accumulator ADD leaves is congruent to the sum of the old accumulator and the buffer modulo 2^18 - 1, the one's-complement sum. (41_memref.md R128, R135; 00_scope.md R10) -/
def Obligations.AddAgreesWithTheSumModuloMinusZero : Prop :=
  ∀ (ind : Bool) (y : Addr) (s t : State), exec (.add ind y) s = .next t →
    t.ac.toNat % (2 ^ 18 - 1) = (s.ac.toNat + (memoryBuffer ind y s).toNat) % (2 ^ 18 - 1)

/-- Its word decodes to it; in every state TAD completes with AC, as a number, the sum modulo 2^18, L complemented when the sum carries out of bit 17 and unchanged otherwise, and nothing else changed but the fetch, the latches and the cost. (R129) -/
def Obligations.TadIsTwosComplementAndTogglesLink : Prop :=
  (∀ p ind y, decode p (memrefBits 0o340000 ind y) = .tad ind y) ∧
    ∀ (ind : Bool) (y : Addr) (s : State),
      let sum := s.ac.toNat + (memoryBuffer ind y s).toNat
      ∃ r : Word, ∃ l : Bit, exec (.tad ind y) s =
          .next { s.afterMemref s.params.cyc.tad ind y with ac := r, link := l } ∧
        r.toNat = sum % 2 ^ 18 ∧
        l.toNat = if 2 ^ 18 ≤ sum then 1 - s.link.toNat else s.link.toNat

/-- In every state: when the chain of XCTs from an XCT's target ends within XCT_MAX_DEPTH in an instruction that is no XCT, the XCT completes, and the state it leaves is the one that instruction leaves when it is fetched at the same PC, but for IR, EA, MB, CYCLES and the count of free values: holds, faults, skips, calls and mailbox writes included. When the chain does not end within the limit, the XCT records XCT_DEPTH with the word that would have been executed at depth XCT_MAX_DEPTH + 1, keeps its latches and changes nothing else. That a hold and a fault are next states is the model's (logs 9 and 10, DEDUCED). (40_cycle.md R110, R113; 41_memref.md R130; 60_exceptions.md R256; 95_test_vectors.md S4) -/
def Obligations.XctActsAsItsTargetFetchedDirectly : Prop :=
  ∀ (ind : Bool) (y : Addr) (s : State),
    match chainEnd (s.params.xctMaxDepth - 1) (memoryBuffer ind y s) s with
    | some j => ∃ t u, exec j s = .next t ∧ exec (.xct ind y) s = .next u ∧
        { u with ir := t.ir, ea := t.ea, mb := t.mb, cycles := t.cycles, draws := t.draws } = t
    | none => exec (.xct ind y) s =
        .next { s.afterFault .xctDepth (chainWord (s.params.xctMaxDepth - 1) (memoryBuffer ind y s) s) with
          ea := effectiveAddress ind y s, mb := memoryBuffer ind y s }

/-- When the chain of XCTs from an XCT's target ends within the depth limit in a legal instruction that is no XCT and that does not hold (a TLS or a DSP under Block with its own mailbox full is what holds), the XCT's step leaves IR, EA and MB as the outermost XCT latched them, and CYCLES grown by what that instruction costs when fetched directly, and by CYC[XCT] and one for indirection for each XCT of the chain, the outermost included. (40_cycle.md R109, R110, R113; 10_state.md R24, R25, R26) -/
def Obligations.XctKeepsItsLatchesAndAddsItsCost : Prop :=
  ∀ (ind : Bool) (y : Addr) (s : State) (j : Instr),
    chainEnd (s.params.xctMaxDepth - 1) (memoryBuffer ind y s) s = some j →
    illegalCause s.params j = none →
    (s.params.mailboxPolicy = .block → (j = .tls → s.mbxTty = 0) ∧ (j = .dsp → s.mbxDsp = 0)) →
    ∃ t u, exec j s = .next t ∧ exec (.xct ind y) s = .next u ∧
      u.ir = s.fetchWord ∧ u.ea = effectiveAddress ind y s ∧ u.mb = memoryBuffer ind y s ∧
      u.cycles = t.cycles + chainCost (s.params.xctMaxDepth - 1) (memoryBuffer ind y s) s +
        s.params.cyc.xct + (if ind then 1 else 0)

/-- Its word decodes to it; in every state with a canonical memory ISZ completes: the cell at the effective address becomes the buffer plus 1 modulo 2^18 and no other word changes, PC skips one word exactly when the new word is 0, AC, L and everything else stay. (R131) -/
def Obligations.IszIncrementsAndSkipsOnZero : Prop :=
  (∀ p ind y, decode p (memrefBits 0o440000 ind y) = .isz ind y) ∧
    ∀ (ind : Bool) (y : Addr) (s : State), Memory.wf s.mem →
      ∃ t, ∃ v : Word, exec (.isz ind y) s = .next t ∧ v.toNat = ((memoryBuffer ind y s).toNat + 1) % 2 ^ 18 ∧
        UpToMemory t { s.afterMemref s.params.cyc.isz ind y with
          pc := if v = 0 then s.pc + 2 else s.pc + 1 } ∧
        StoresOnly s t (effectiveAddress ind y s) v

/-- Its word decodes to it; in every state SAD completes with PC one word further exactly when AC is not the buffer; memory, AC, L and everything else are unchanged but the fetch, the latches and the cost. (R132) -/
def Obligations.SadSkipsWhenDifferent : Prop :=
  (∀ p ind y, decode p (memrefBits 0o540000 ind y) = .sad ind y) ∧
    ∀ (ind : Bool) (y : Addr) (s : State),
      exec (.sad ind y) s =
        .next { s.afterMemref s.params.cyc.sad ind y with
          pc := if s.ac = memoryBuffer ind y s then s.pc + 1 else s.pc + 2 }

/-- Its word decodes to it; in every state JMP completes with PC the effective address (for an indirect JMP the low 13 bits of the word at Y), nothing else changed but the fetch, the latches and the cost. (R133) -/
def Obligations.JmpGoesToTheEffectiveAddress : Prop :=
  (∀ p ind y, decode p (memrefBits 0o600000 ind y) = .jmp ind y) ∧
    ∀ (ind : Bool) (y : Addr) (s : State),
      exec (.jmp ind y) s =
        .next { s.afterMemref s.params.cyc.jmp ind y with
          pc := if ind then (s.readWord y).setWidth 13 else y }

/-- In every state with a canonical memory, a direct DAC to the address after it leaves a state whose next fetch is the accumulator's word, and that word's instruction is what the next CPU step executes. (20_memory.md R64; 70_reset_and_hazards.md R282; 41_memref.md R122) -/
def Obligations.StoreIsSeenByTheNextFetch : Prop :=
  ∀ s : State, Memory.wf s.mem →
    ∃ t, exec (.dac false (s.pc + 1)) s = .next t ∧ t.fetchWord = s.ac ∧
      cpuStep t = exec (decode s.params s.ac) t

/-- In every state KRB completes with AC the zero-extended 8-bit keyboard draw, L, memory, the mailboxes and everything else unchanged but the fetch, the cost and the unspecified latches. (43_iot_mailbox.md R182; 00_scope.md R8) -/
def Obligations.KrbLoadsTheKeyboardValue : Prop :=
  ∀ s : State, ∃ t, exec .krb s = .next t ∧
    UpToLatches t { s.afterRegister s.params.cyc.iot with
      ac := (Config.drawKeyboard s.draws).setWidth 18 }

/-- Under Block: TLS or DSP with its slot full changes nothing at all, the fetch included; with its slot empty TLS writes the low 8 bits of AC and DSP all of AC, and nothing else changes but the fetch, the cost and the unspecified latches. That a hold is a next state, unchanged, is log 9 (DEDUCED). (43_iot_mailbox.md R185) -/
def Obligations.MailboxWriteUnderBlock : Prop :=
  ∀ s : State, s.params.mailboxPolicy = .block →
    (s.mbxTty ≠ 0 → exec .tls s = .next s) ∧
    (s.mbxDsp ≠ 0 → exec .dsp s = .next s) ∧
    (s.mbxTty = 0 → ∃ t, exec .tls s = .next t ∧
      UpToLatches t { s.afterRegister s.params.cyc.iot with mbxTty := s.ac &&& 0o377 }) ∧
    (s.mbxDsp = 0 → ∃ t, exec .dsp s = .next t ∧
      UpToLatches t { s.afterRegister s.params.cyc.iot with mbxDsp := s.ac })

/-- Under Overwrite TLS and DSP complete in every state: the slot receives the low 8 bits of AC, or all of AC; OVERWRITES grows by one exactly when the slot was full; nothing else changes but the fetch, the cost and the unspecified latches. (R186) -/
def Obligations.MailboxWriteUnderOverwrite : Prop :=
  ∀ s : State, s.params.mailboxPolicy = .overwrite →
    (∃ t, exec .tls s = .next t ∧
      UpToLatches t { s.afterRegister s.params.cyc.iot with
        mbxTty := s.ac &&& 0o377
        overwrites := if s.mbxTty = 0 then s.overwrites else s.overwrites + 1 }) ∧
    (∃ t, exec .dsp s = .next t ∧
      UpToLatches t { s.afterRegister s.params.cyc.iot with
        mbxDsp := s.ac
        overwrites := if s.mbxDsp = 0 then s.overwrites else s.overwrites + 1 })

/-- Whatever instruction executes, XCT chains included: under Block a full mailbox keeps its word and OVERWRITES stays; under Overwrite a full mailbox whose word changes makes OVERWRITES grow by exactly one, and OVERWRITES never grows by more. (43_iot_mailbox.md R185, R186, R192; 70_reset_and_hazards.md R279) -/
def Obligations.BlockLosesNoWordAndOverwriteCountsEveryLoss : Prop :=
  ∀ (i : Instr) (s t : State), exec i s = .next t →
    (s.params.mailboxPolicy = .block →
      (s.mbxTty ≠ 0 → t.mbxTty = s.mbxTty) ∧ (s.mbxDsp ≠ 0 → t.mbxDsp = s.mbxDsp) ∧
        t.overwrites = s.overwrites) ∧
    (s.params.mailboxPolicy = .overwrite →
      (t.overwrites = s.overwrites ∨ t.overwrites = s.overwrites + 1) ∧
        (s.mbxTty ≠ 0 → t.mbxTty ≠ s.mbxTty → t.overwrites = s.overwrites + 1) ∧
        (s.mbxDsp ≠ 0 → t.mbxDsp ≠ s.mbxDsp → t.overwrites = s.overwrites + 1))

/-- For every choice of the thirteen bits that R151 allows, the operate word completes in every state: clears, switches, complements, one or two rotations of the 19-bit ring L:AC, the skip on what those left, the halt; nothing else changes but the fetch, the cost and the unspecified latches. A word with a name of its own does the same. (R152) -/
def Obligations.LegalOperateWordsCompose : Prop :=
  ∀ (bits : BitVec 13) (s : State),
    ¬(bits.getLsbD 3 = true ∧ bits.getLsbD 4 = true) →
    (bits.getLsbD 10 = true → bits.getLsbD 3 = true ∨ bits.getLsbD 4 = true) →
    let cleared := if bits.getLsbD 12 then 0 else s.ac
    let switched := if bits.getLsbD 2 then cleared ||| Config.drawSwitches s.draws else cleared
    let complemented := if bits.getLsbD 0 then ~~~switched else switched
    let l1 := if bits.getLsbD 11 then 0 else s.link
    let l2 := if bits.getLsbD 1 then ~~~l1 else l1
    let n := if bits.getLsbD 10 then 2 else 1
    let r := if bits.getLsbD 3 then (ring l2 complemented).rotateLeft n
      else if bits.getLsbD 4 then (ring l2 complemented).rotateRight n
      else ring l2 complemented
    let c := (bits.getLsbD 6 = true ∧ (ringAc r).getLsbD 17 = true) ∨
      (bits.getLsbD 7 = true ∧ ringAc r = 0) ∨ (bits.getLsbD 8 = true ∧ ringLink r = 1)
    OperateLeaves (.opr bits) s (ringAc r) (ringLink r)
      (if (c ∧ bits.getLsbD 9 = false) ∨ (¬c ∧ bits.getLsbD 9 = true) then s.pc + 2 else s.pc + 1)
      (if bits.getLsbD 5 then false else s.run) ∧
    exec (decode s.params (0o740000 ||| bits.setWidth 18)) s = exec (.opr bits) s

/-- Every named word of R165's table decodes to its instruction, and in every state each that does not rotate completes with the accumulator, Link, PC and RUN that the table gives and nothing else changed but the fetch, the cost and the unspecified latches. The spec marks the names as general knowledge (log 15). (42_operate.md R165, R152) -/
def Obligations.NamedOperateWordsDoWhatTheirNamesSay : Prop :=
  (∀ p : Params,
      decode p 0o740000 = .nop ∧ decode p 0o740001 = .cma ∧ decode p 0o740002 = .cml ∧ decode p 0o740004 = .oas ∧
      decode p 0o740010 = .ral ∧ decode p 0o740020 = .rar ∧ decode p 0o740040 = .hlt ∧ decode p 0o740100 = .sma ∧
      decode p 0o740200 = .sza ∧ decode p 0o740400 = .snl ∧ decode p 0o741000 = .skp ∧ decode p 0o741100 = .spa ∧
      decode p 0o741200 = .sna ∧ decode p 0o741400 = .szl ∧ decode p 0o742010 = .rtl ∧ decode p 0o742020 = .rtr ∧
      decode p 0o744000 = .cll ∧ decode p 0o744002 = .stl ∧ decode p 0o744010 = .rcl ∧ decode p 0o744020 = .rcr ∧
      decode p 0o750000 = .cla ∧ decode p 0o750001 = .clc ∧ decode p 0o750004 = .las ∧ decode p 0o750010 = .glk) ∧
    ∀ s : State,
      let next := s.pc + 1
      let skip := s.pc + 2
      let sw := Config.drawSwitches s.draws
      OperateLeaves .nop s s.ac s.link next s.run ∧
      OperateLeaves .cma s (0o777777 - s.ac) s.link next s.run ∧
      OperateLeaves .cml s s.ac (1 - s.link) next s.run ∧
      OperateLeaves .oas s (s.ac ||| sw) s.link next s.run ∧
      OperateLeaves .hlt s s.ac s.link next false ∧
      OperateLeaves .sma s s.ac s.link (if s.ac.getLsbD 17 then skip else next) s.run ∧
      OperateLeaves .sza s s.ac s.link (if s.ac = 0 then skip else next) s.run ∧
      OperateLeaves .snl s s.ac s.link (if s.link = 1 then skip else next) s.run ∧
      OperateLeaves .skp s s.ac s.link skip s.run ∧
      OperateLeaves .spa s s.ac s.link (if s.ac.getLsbD 17 then next else skip) s.run ∧
      OperateLeaves .sna s s.ac s.link (if s.ac = 0 then next else skip) s.run ∧
      OperateLeaves .szl s s.ac s.link (if s.link = 0 then skip else next) s.run ∧
      OperateLeaves .cll s s.ac 0 next s.run ∧
      OperateLeaves .stl s s.ac 1 next s.run ∧
      OperateLeaves .cla s 0 s.link next s.run ∧
      OperateLeaves .clc s 0o777777 s.link next s.run ∧
      OperateLeaves .las s sw s.link next s.run

/-- In every state RAL, RAR, RTL, RTR, RCL, RCR and GLK complete with the accumulator and Link that R165's table gives (the 19-bit ring turned once or twice, after CLL or CLA where the name has it), PC on the next word, RUN kept and nothing else changed but the fetch, the cost and the unspecified latches. The spec marks the names as general knowledge (log 15). (42_operate.md R165, R152, R154) -/
def Obligations.NamedRotateWordsDoWhatTheirNamesSay : Prop :=
  ∀ s : State,
      let l := s.link.setWidth 18
      OperateLeaves .ral s (s.ac <<< 1 ||| l) (s.ac.extractLsb' 17 1) (s.pc + 1) s.run ∧
      OperateLeaves .rar s (s.ac >>> 1 ||| l <<< 17) (s.ac.extractLsb' 0 1) (s.pc + 1) s.run ∧
      OperateLeaves .rtl s (s.ac <<< 2 ||| l <<< 1 ||| s.ac >>> 17) (s.ac.extractLsb' 16 1) (s.pc + 1) s.run ∧
      OperateLeaves .rtr s (s.ac >>> 2 ||| l <<< 16 ||| s.ac <<< 17) (s.ac.extractLsb' 1 1) (s.pc + 1) s.run ∧
      OperateLeaves .rcl s (s.ac <<< 1) (s.ac.extractLsb' 17 1) (s.pc + 1) s.run ∧
      OperateLeaves .rcr s (s.ac >>> 1) (s.ac.extractLsb' 0 1) (s.pc + 1) s.run ∧
      OperateLeaves .glk s l 0 (s.pc + 1) s.run

/-- A word with OP = 15 and bit 13 set decodes to LAW; with OPT_LAW true it completes with AC the whole instruction word and nothing else changed but the fetch, the cost and the unspecified latches; with OPT_LAW false it takes BAD_OPERATE: the fetch, the fault record with the word and its address, PRUN cleared, and nothing else. The default of OPT_LAW is false. The spec marks LAW and its default as its own, from general knowledge (log 15). That the fault is a next state is log 10 (DEDUCED), that EA and MB then stay log 22 (DEDUCED), R253 read over R106; that LAW costs CYC[OPR] is log 18 (DEDUCED); that with OPT_LAW it runs for every k, bits 3 and 4 both set and bit 10 alone included, is the model's reading of R164 over R151 (b) and (c) (log 27, DESIGN CHOICE). (42_operate.md R164, R151; 40_cycle.md R109; 60_exceptions.md R253, R255) -/
def Obligations.LawLoadsItsOwnWord : Prop :=
  Params.default.optLaw = false ∧
    (∀ (p : Params) (k : BitVec 13), decode p (0o760000 ||| k.setWidth 18) = .law k) ∧
    ∀ (k : BitVec 13) (s : State),
      (s.params.optLaw = true → ∃ t, exec (.law k) s = .next t ∧
        UpToLatches t { s.afterRegister s.params.cyc.opr with ac := 0o760000 ||| k.setWidth 18 }) ∧
      (s.params.optLaw = false →
        exec (.law k) s = .next (s.afterFault .badOperate (0o760000 ||| k.setWidth 18)))

/-- rotl and rotr are the rotations of the 19-bit ring L:AC by one place, they undo each other, and nineteen of either give the accumulator and Link back. (R154) -/
def Obligations.RotatesTurnTheRing : Prop :=
  ∀ r : AcLink,
    ring (rotl r).link (rotl r).ac = (ring r.link r.ac).rotateLeft 1 ∧
    ring (rotr r).link (rotr r).ac = (ring r.link r.ac).rotateRight 1 ∧
    (rotl r).link = r.ac.extractLsb' 17 1 ∧ (rotr r).link = r.ac.extractLsb' 0 1 ∧
    rotr (rotl r) = r ∧ rotl (rotr r) = r ∧ rotl^[19] r = r ∧ rotr^[19] r = r

/-- On any accumulator and Link: with bit 9 clear the skip is taken exactly when some selected test holds; with bit 9 set exactly when no selected test holds, so bit 9 alone always skips. (42_operate.md R160) -/
def Obligations.InvertedSkipNeedsEveryCondition : Prop :=
  ∀ (bits : BitVec 13) (r : AcLink),
    (bits.getLsbD 9 = false → (operateSkips bits r = true ↔
      (bits.getLsbD 6 = true ∧ r.ac.toNat ≥ 2 ^ 17) ∨ (bits.getLsbD 7 = true ∧ r.ac = 0) ∨
        (bits.getLsbD 8 = true ∧ r.link = 1))) ∧
    (bits.getLsbD 9 = true → (operateSkips bits r = true ↔
      (bits.getLsbD 6 = true → r.ac.toNat < 2 ^ 17) ∧ (bits.getLsbD 7 = true → r.ac ≠ 0) ∧
        (bits.getLsbD 8 = true → r.link = 0)))

/-- Every other instruction of the table leaves the memory as it was, whatever the state and whether it completes, holds or faults. (10_state.md R39; 42_operate.md R153) -/
def Obligations.OnlyTheStoringInstructionsWriteMemory : Prop :=
  ∀ (i : Instr) (s t : State),
    (∀ d y, i ≠ .cal d y ∧ i ≠ .dac d y ∧ i ≠ .jms d y ∧ i ≠ .dzm d y ∧ i ≠ .isz d y ∧ i ≠ .xct d y) →
    exec i s = .next t → t.mem = s.mem

/-- Every other instruction leaves L as it was. An unnamed operate word leaves it too when it neither clears nor complements it nor rotates. (10_state.md R22, R39; 41_memref.md R120) -/
def Obligations.OnlyTheseInstructionsChangeTheLink : Prop :=
  ∀ (i : Instr) (s t : State),
    (∀ d y, i ≠ .add d y ∧ i ≠ .tad d y ∧ i ≠ .xct d y) →
    i ∉ [.cml, .ral, .rar, .rtl, .rtr, .cll, .stl, .rcl, .rcr, .glk] →
    (∀ bits : BitVec 13, i = .opr bits →
      bits.getLsbD 1 = false ∧ bits.getLsbD 3 = false ∧ bits.getLsbD 4 = false ∧ bits.getLsbD 11 = false) →
    exec i s = .next t → t.link = s.link

/-- Whatever instruction executes, MODE, both cursors, the output trace, the parameters and the model's schedule and wait stay as they were. (10_state.md R34, R35, R36, R39; 43_iot_mailbox.md R195) -/
def Obligations.CpuLeavesTheDecodersAlone : Prop :=
  ∀ (i : Instr) (s t : State), exec i s = .next t →
    t.mode = s.mode ∧ t.curX = s.curX ∧ t.curY = s.curY ∧ t.tcurX = s.tcurX ∧ t.tcurY = s.tcurY ∧
      t.trace = s.trace ∧ t.params = s.params ∧ t.schedule = s.schedule ∧ t.wait = s.wait

/-- Over every step of any agent or of the host: RUN and PRUN are never set again, CYCLES and OVERWRITES never fall, the trace only grows at its end, and the parameters stay. (10_state.md R27, R28, R33; 43_iot_mailbox.md R194; 40_cycle.md R112) -/
def Obligations.FlagsOfTheRunOnlyFall : Prop :=
  ∀ s t : State, step s = .next t →
    (t.run = true → s.run = true) ∧ (t.prun = true → s.prun = true) ∧ s.cycles ≤ t.cycles ∧
      s.overwrites ≤ t.overwrites ∧ s.trace <+: t.trace ∧ t.params = s.params

/-- After launch: AC, L, IR, EA, MB are the launch parameters, PC is START_PC, RUN 1, CYCLES 0, FAULT none, the mailboxes and OVERWRITES 0, PRUN 1 exactly when a peripheral is configured, MODE Parameter, both cursors at the origin; MEM holds the loaded pairs over the unspecified cells. (R270) -/
def Obligations.LaunchSetsTheState : Prop :=
  ∀ (c : LaunchChoice) (ins dat : List (Nat × Nat)) (s : State), launch c ins dat = .ok s →
    loadPairs c.cells (ins ++ dat) = .ok s.mem ∧ s.params = c.params ∧
      s.ac = c.ac0 ∧ s.link = c.link0 ∧ s.pc = c.params.startPc ∧ s.ir = c.ir0 ∧ s.ea = c.ea0 ∧ s.mb = c.mb0 ∧
      s.run = true ∧ s.cycles = 0 ∧ s.fault = none ∧ s.mbxTty = 0 ∧ s.mbxDsp = 0 ∧ s.overwrites = 0 ∧
      (s.prun = true ↔ c.params.peripheral ≠ .none) ∧ s.mode = .parameter ∧
      s.curX = 0 ∧ s.curY = 0 ∧ s.tcurX = 0 ∧ s.tcurY = 0

/-- State.reset: PC is 0o2000, RUN 1, CYCLES 0, FAULT none, mailboxes and OVERWRITES 0, PRUN 1, MODE Parameter, cursors at the origin. Nothing is said here of AC, L, IR, EA, MB or unloaded cells, which the spec leaves unspecified. (70_reset_and_hazards.md R270, R271, R274; 00_scope.md R7) -/
def Obligations.ResetHoldsTheLaunchValues : Prop :=
  State.reset.pc = 0o2000#13 ∧ State.reset.run = true ∧ State.reset.cycles = 0 ∧ State.reset.fault = none ∧
    State.reset.mbxTty = 0 ∧ State.reset.mbxDsp = 0 ∧ State.reset.overwrites = 0 ∧ State.reset.prun = true ∧
    State.reset.mode = .parameter ∧ State.reset.curX = 0 ∧ State.reset.curY = 0 ∧
    State.reset.tcurX = 0 ∧ State.reset.tcurY = 0 ∧ State.reset.params = Params.default

/-- Loading succeeds exactly when every pair's address is below 8192 and its value below 2^18; LOAD_ADDRESS is answered only when some address does not fit, LOAD_VALUE only when some value does not. (20_memory.md R55; 60_exceptions.md R251, R257) -/
def Obligations.LoadFailsExactlyOnBadPairs : Prop :=
  ∀ (m : Memory) (pairs : List (Nat × Nat)),
    ((∃ m', loadPairs m pairs = .ok m') ↔ ∀ q ∈ pairs, q.1 < 8192 ∧ q.2 < 2 ^ 18) ∧
    (loadPairs m pairs = .error .loadAddress → ∃ q ∈ pairs, 8192 ≤ q.1) ∧
    (loadPairs m pairs = .error .loadValue → ∃ q ∈ pairs, 2 ^ 18 ≤ q.2)

/-- After a successful load into a canonical memory, each address reads as the value of the last pair that names it, and as before when none does. (20_memory.md R55) -/
def Obligations.LaterPairWins : Prop :=
  ∀ (m m' : Memory) (pairs : List (Nat × Nat)) (a : Nat), Memory.wf m → loadPairs m pairs = .ok m' →
    Memory.read m' a =
      match pairs.reverse.find? (fun q => q.1 == a) with
      | some q => BitVec.ofNat 18 q.2
      | none => Memory.read m a

/-- With parameters of R7's kind and any canonical contents of the unloaded cells, the launched state satisfies Inv, whatever is loaded and whatever the unspecified values are. (70_reset_and_hazards.md R270; 10_state.md R33, R35, R36; 00_scope.md R7) -/
def Obligations.LaunchedStateSatisfiesInv : Prop :=
  ∀ (c : LaunchChoice) (ins dat : List (Nat × Nat)) (s : State), c.params.wf = true → Memory.wf c.cells →
    launch c ins dat = .ok s → s.Inv

/-- State.reset satisfies Inv. (70_reset_and_hazards.md R270; 00_scope.md R7) -/
def Obligations.ResetSatisfiesInv : Prop :=
  State.reset.Inv

/-- From every state that satisfies Inv (parameters of R7's kind, canonical memory, both cursors inside the grid, no peripheral running after a fault or without being configured), a step of the CPU, of the consumer or of the host leaves a state that satisfies Inv. (10_state.md R33, R35, R36; 20_memory.md R50; 60_exceptions.md R253; 44_display.md R223) -/
def Obligations.StepKeepsInv : Prop :=
  ∀ s t : State, s.Inv → step s = .next t → t.Inv

/-- On a turn fixed for the consumer with PRUN = 1 and its mailbox full, the step leaves the display (or teleprinter) decoding of the word, with the mailbox empty; when its step is not enabled the turn changes nothing but the schedule. The schedule, and that a turn without an enabled step is used up, are the model's choice (logs 8 and 25, DESIGN CHOICE). (43_iot_mailbox.md R190, R191) -/
def Obligations.ConsumerTurnTakesOneWord : Prop :=
  ∀ (s : State) (rest : List Turn), s.schedule = .consumer :: rest →
    (s.params.peripheral = .display → s.prun = true → s.mbxDsp ≠ 0 →
      step s = .next (decodeDisplay s.mbxDsp { s with schedule := rest, mbxDsp := 0 })) ∧
    (s.params.peripheral = .teleprinter → s.prun = true → s.mbxTty ≠ 0 →
      step s = .next (decodeTeleprinter s.mbxTty { s with schedule := rest, mbxTty := 0 })) ∧
    (s.prun = false ∨ s.params.peripheral = .none ∨ (s.params.peripheral = .display ∧ s.mbxDsp = 0) ∨
        (s.params.peripheral = .teleprinter ∧ s.mbxTty = 0) →
      step s = .next { s with schedule := rest })

/-- A take leaves MEM and every CPU register, FAULT, OVERWRITES, RUN and PRUN as they were; and two states that agree on the parameters, the mailboxes, the decoders' state and the trace still agree on them after a take, whatever the CPU holds. The mailbox it drains is the configured peripheral's; with no peripheral it does nothing. (R190) -/
def Obligations.ConsumerLeavesTheCpuAlone : Prop :=
  (∀ s : State,
      { consumerTake s with
        mbxTty := s.mbxTty, mbxDsp := s.mbxDsp, mode := s.mode, curX := s.curX, curY := s.curY,
        tcurX := s.tcurX, tcurY := s.tcurY, trace := s.trace } = s ∧
      (s.params.peripheral = .none → consumerTake s = s) ∧
      (s.params.peripheral = .display → (consumerTake s).mbxDsp = 0 ∧ (consumerTake s).mbxTty = s.mbxTty) ∧
      (s.params.peripheral = .teleprinter → (consumerTake s).mbxTty = 0 ∧ (consumerTake s).mbxDsp = s.mbxDsp)) ∧
    ∀ s t : State, s.params = t.params → s.mbxTty = t.mbxTty → s.mbxDsp = t.mbxDsp → s.mode = t.mode →
      s.curX = t.curX → s.curY = t.curY → s.tcurX = t.tcurX → s.tcurY = t.tcurY → s.trace = t.trace →
      (consumerTake s).mode = (consumerTake t).mode ∧
        (consumerTake s).curX = (consumerTake t).curX ∧ (consumerTake s).curY = (consumerTake t).curY ∧
        (consumerTake s).tcurX = (consumerTake t).tcurX ∧ (consumerTake s).tcurY = (consumerTake t).tcurY ∧
        (consumerTake s).trace = (consumerTake t).trace

/-- Under Block, in every state where both agents may step and the CPU's instruction neither holds nor faults, the consumer may still take after the CPU's step, and taking first and then stepping the CPU leaves exactly the state that stepping first and then taking leaves. (70_reset_and_hazards.md R278; 43_iot_mailbox.md R185, R191; 20_memory.md R59) -/
def Obligations.TakeCommutesWithTheCpuStep : Prop :=
  ∀ s t : State, s.params.mailboxPolicy = .block → cpuRunning s = true → consumerReady s = true →
    cpuHolds s = false → cpuStep s = .next t → t.fault = none →
    consumerReady t = true ∧ cpuStep (consumerTake s) = .next (consumerTake t)

/-- In Parameter mode a word sets MODE to Point for code 1, Character for 3, Vector for 4 and Parameter for every other code, emits present() and nothing else, and changes nothing else. The spec marks the place of the field and the code numbers as general knowledge (log 15). (44_display.md R214, R215) -/
def Obligations.ParameterWordSelectsTheMode : Prop :=
  ∀ (x : Word) (s : State), s.mode = .parameter →
    decodeDisplay x s = { s with
      mode :=
        if (x.extractLsb' 13 3).toNat = 1 then .point
        else if (x.extractLsb' 13 3).toNat = 3 then .character
        else if (x.extractLsb' 13 3).toNat = 4 then .vector
        else .parameter
      trace := s.trace ++ [.present] }

/-- In Point mode a word draws exactly one point, offset by its 10-bit field on the axis bit 16 selects (an unsigned offset, or the field minus 1024 from 512 up when POINT_SIGNED), lit by bit 10, then present(); MODE becomes its next-mode field's; nothing else changes. (R217) -/
def Obligations.PointWordDrawsOnePoint : Prop :=
  ∀ (x : Word) (s : State), s.mode = .point →
    let c : Int := ((x.toNat % 1024 : Nat) : Int)
    let off : Int := if s.params.pointSigned = true ∧ 512 ≤ c then c - 1024 else c
    decodeDisplay x s = { s with
      mode := modeOfCode (x.extractLsb' 13 3)
      trace := s.trace ++
        [if x.getLsbD 16 then .drawPoint (s.params.cx + off) s.params.cy (x.getLsbD 10)
         else .drawPoint s.params.cx (s.params.cy + off) (x.getLsbD 10), .present] }

/-- In Vector mode a word draws exactly one line from the centre to the centre plus its two sign-and-magnitude offsets, lit by bit 16, then present(); MODE becomes Parameter exactly when bit 17 is set; nothing else changes, so vectors do not chain. (R219) -/
def Obligations.VectorWordDrawsFromTheCentre : Prop :=
  ∀ (x : Word) (s : State), s.mode = .vector →
    let dx : Int := (if x.getLsbD 7 then -1 else 1) * ((x.toNat % 128 : Nat) : Int)
    let dy : Int := (if x.getLsbD 15 then -1 else 1) * ((x.toNat / 256 % 128 : Nat) : Int)
    decodeDisplay x s = { s with
      mode := if x.getLsbD 17 then .parameter else .vector
      trace := s.trace ++
        [.drawLine s.params.cx s.params.cy (s.params.cx + dx) (s.params.cy + dy) (x.getLsbD 16),
          .present] }

/-- Under parameters of R7's kind: CR resets the column, LF and VSH move a row down modulo ROWS, HSH moves a column right and wraps to the next row at COLS, NUL does nothing, and ESC ends the word, each without a call. (44_display.md R221, R223, R224, R225, R226, R227, R228) -/
def Obligations.ControlCodesMoveTheCursor : Prop :=
  ∀ (p : Params) (rest : List Code) (cx cy : Nat), p.wf = true →
    decodeGroups p (p.chCr :: rest) cx cy = decodeGroups p rest 0 cy ∧
    decodeGroups p (p.chLf :: rest) cx cy = decodeGroups p rest cx ((cy + 1) % p.rows) ∧
    decodeGroups p (p.chVsh :: rest) cx cy = decodeGroups p rest cx ((cy + 1) % p.rows) ∧
    decodeGroups p (p.chHsh :: rest) cx cy =
      (if cx + 1 < p.cols then decodeGroups p rest (cx + 1) cy
       else decodeGroups p rest 0 ((cy + 1) % p.rows)) ∧
    decodeGroups p (p.chNul :: rest) cx cy = decodeGroups p rest cx cy ∧
    decodeGroups p (p.chEsc :: rest) cx cy = { calls := [], cx := cx, cy := cy, escaped := true }

/-- In Character mode a word whose three 6-bit groups are g1, g2, g3, most significant first, appends to the trace the calls that decoding g1, g2, g3 from the cursor makes, then present(), and leaves the cursor where that decoding leaves it, MODE Parameter exactly when one of them is the escape code, and everything else as it was. For parameters of R7's kind an ordinary code draws its glyph at the cursor and advances: to the next column, or past the last column to column 0 of the next row modulo ROWS. (44_display.md R213, R220, R221, R222, R223, R228, R229) -/
def Obligations.CharacterWordDecodesItsGroups : Prop :=
  (∀ (x : Word) (g1 g2 g3 : Code) (s : State), s.mode = .character →
      x.toNat = g1.toNat * 64 ^ 2 + g2.toNat * 64 + g3.toNat →
      let r := decodeGroups s.params [g1, g2, g3] s.curX s.curY
      decodeDisplay x s = { s with
        curX := r.cx
        curY := r.cy
        mode := if g1 = s.params.chEsc ∨ g2 = s.params.chEsc ∨ g3 = s.params.chEsc then .parameter else .character
        trace := s.trace ++ r.calls ++ [.present] }) ∧
    ∀ (p : Params) (g : Code) (rest : List Code) (cx cy : Nat), p.wf = true → ordinaryCode p g = true → cx < p.cols →
      let r := if cx + 1 = p.cols then decodeGroups p rest 0 ((cy + 1) % p.rows) else decodeGroups p rest (cx + 1) cy
      decodeGroups p (g :: rest) cx cy = { r with calls := .drawGlyph cx cy (glyphIndex p g) :: r.calls }

/-- In Character mode, with room for three glyphs in the row, a word of three ordinary codes draws exactly three glyphs at consecutive columns, most significant code first, then present(); the cursor moves three columns, or to column 0 of the next row modulo ROWS when the third glyph fills the last column; MODE stays Character and nothing else changes. (44_display.md R220, R222, R223, R233) -/
def Obligations.ThreeOrdinaryCodesDrawThreeGlyphs : Prop :=
  ∀ (x : Word) (g1 g2 g3 : Code) (s : State), s.mode = .character →
    x.toNat = g1.toNat * 64 ^ 2 + g2.toNat * 64 + g3.toNat →
    ordinaryCode s.params g1 = true → ordinaryCode s.params g2 = true → ordinaryCode s.params g3 = true →
    s.curX + 3 ≤ s.params.cols →
    decodeDisplay x s = { s with
      curX := if s.curX + 3 = s.params.cols then 0 else s.curX + 3
      curY := if s.curX + 3 = s.params.cols then (s.curY + 1) % s.params.rows else s.curY
      trace := s.trace ++
        [.drawGlyph s.curX s.curY (glyphIndex s.params g1),
          .drawGlyph (s.curX + 1) s.curY (glyphIndex s.params g2),
          .drawGlyph (s.curX + 2) s.curY (glyphIndex s.params g3), .present] }

/-- From Parameter and Point the next mode is the word's field; from Vector it stays unless bit 17 is set; from Character it stays unless a group is the escape code; Parameter, Point and Vector words leave the cursor, and no word moves the teleprinter's. The spec marks this summary as derived from its rules R214 to R228. (44_display.md R235) -/
def Obligations.ModeTransitions : Prop :=
  ∀ (x : Word) (s : State),
    (s.mode = .parameter → (decodeDisplay x s).mode = modeOfCode (x.extractLsb' 13 3)) ∧
    (s.mode = .point → (decodeDisplay x s).mode = modeOfCode (x.extractLsb' 13 3)) ∧
    (s.mode = .vector → (decodeDisplay x s).mode = if x.getLsbD 17 then .parameter else .vector) ∧
    (s.mode = .character → (decodeDisplay x s).mode =
      if s.params.chEsc ∈ [x.extractLsb' 12 6, x.extractLsb' 6 6, x.extractLsb' 0 6] then .parameter
      else .character) ∧
    (s.mode ≠ .character → (decodeDisplay x s).curX = s.curX ∧ (decodeDisplay x s).curY = s.curY) ∧
    (decodeDisplay x s).tcurX = s.tcurX ∧ (decodeDisplay x s).tcurY = s.tcurY

/-- Decoding a teleprinter word with groups g1, g2, g3 appends the calls that decoding them from the teleprinter's cursor makes, then present(), leaves that cursor where this decoding does, and changes nothing else, MODE and the display's cursor included. A word TLS sends is the low 8 bits of AC; with the null code 0, its decoding is that of its groups g2 (bits 7 and 6) and g3 (bits 5 to 0) alone, all its calls are glyphs, at most two, and when there are two the first is at the cursor with a code from 1 to 3. R232's 'the first of them' is read as the first of two, because g2 = 0 leaves g3 alone. (44_display.md R232, R236; 43_iot_mailbox.md R183) -/
def Obligations.TeleprinterWordDrawsAtMostTwoGlyphs : Prop :=
  (∀ (x : Word) (g1 g2 g3 : Code) (s : State), x.toNat = g1.toNat * 64 ^ 2 + g2.toNat * 64 + g3.toNat →
      let r := decodeGroups s.params [g1, g2, g3] s.tcurX s.tcurY
      decodeTeleprinter x s =
        { s with tcurX := r.cx, tcurY := r.cy, trace := s.trace ++ r.calls ++ [.present] }) ∧
    ∀ (ac : Word) (s : State), s.params.chNul = 0 → s.params.chEsc ≠ 0 →
      let g2 : Code := BitVec.ofNat 6 (ac.toNat / 64 % 4)
      let g3 : Code := BitVec.ofNat 6 (ac.toNat % 64)
      let r := decodeGroups s.params [g2, g3] s.tcurX s.tcurY
      (tlsWord ac).toNat = ac.toNat % 256 ∧
      decodeTeleprinter (tlsWord ac) s =
        { s with tcurX := r.cx, tcurY := r.cy, trace := s.trace ++ r.calls ++ [.present] } ∧
      r.calls.length ≤ 2 ∧ (∀ call ∈ r.calls, ∃ x y g, call = .drawGlyph x y g) ∧
      (r.calls.length = 2 →
        1 ≤ g2.toNat ∧ g2.toNat ≤ 3 ∧
          r.calls.head? = some (.drawGlyph s.tcurX s.tcurY (glyphIndex s.params g2)))
end

