-- ==== Sys2Proof/Laws/Memory.lean ====
section
/-! SUPPORT. The laws of the memory: reading after writing, and the canonical form kept by every operation
(spec/20_memory.md R50, R52, R60). -/

namespace Sys2Proof.Machine

@[simp] theorem Memory.read_nil (a : Nat) : Memory.read [] a = unlistedWord := rfl

theorem Memory.read_cons (b : Nat) (u : Word) (m : Memory) (a : Nat) :
    Memory.read ((b, u) :: m) a = if b = a then u else Memory.read m a := rfl

/-- An address below every listed one reads as an unlisted cell. -/
theorem Memory.read_of_lt_all (m : Memory) (a : Nat) (h : ∀ c ∈ m, a < c.1) :
    Memory.read m a = unlistedWord := by
  induction m with
  | nil => rfl
  | cons c m ih =>
    have hc : a < c.1 := h c (by simp)
    rw [Memory.read_cons, if_neg (by omega)]
    exact ih fun d hd => h d (by simp [hd])

theorem Memory.wf_nil : Memory.wf [] := by simp [Memory.wf]

theorem Memory.wf_cons {b : Nat} {u : Word} {m : Memory} :
    Memory.wf ((b, u) :: m) ↔
      (∀ c ∈ m, b < c.1) ∧ b < memorySize ∧ u ≠ unlistedWord ∧ Memory.wf m := by
  simp only [Memory.wf, List.pairwise_cons, List.mem_cons, forall_eq_or_imp]
  tauto

/-- A write changes no other cell, whatever the list. -/
theorem Memory.read_write_other (m : Memory) (a b : Nat) (v : Word) (h : b ≠ a) :
    Memory.read (Memory.write m a v) b = Memory.read m b := by
  induction m with
  | nil =>
    by_cases hv : v = unlistedWord <;> simp [Memory.write, Memory.read, hv, h.symm]
  | cons c m ih =>
    obtain ⟨k, u⟩ := c
    by_cases hlt : a < k
    · by_cases hv : v = unlistedWord <;> simp [Memory.write, Memory.read, hlt, hv, h.symm]
    · by_cases hk : k = a
      · subst hk
        by_cases hv : v = unlistedWord <;> simp [Memory.write, Memory.read, hv, h.symm]
      · simp [Memory.write, Memory.read, hlt, hk, ih]

/-- In a canonical memory the written cell reads as what was written. -/
theorem Memory.read_write_same (m : Memory) (a : Nat) (v : Word) (h : Memory.wf m) :
    Memory.read (Memory.write m a v) a = v := by
  induction m with
  | nil => by_cases hv : v = unlistedWord <;> simp [Memory.write, Memory.read, hv]
  | cons c m ih =>
    obtain ⟨k, u⟩ := c
    obtain ⟨hlow, -, -, hm⟩ := Memory.wf_cons.mp h
    by_cases hlt : a < k
    · by_cases hv : v = unlistedWord
      · have hrest : Memory.read m a = unlistedWord :=
          Memory.read_of_lt_all m a fun d hd => lt_trans hlt (hlow d hd)
        simp [Memory.write, Memory.read, hlt, hv, show k ≠ a by omega, hrest]
      · simp [Memory.write, Memory.read, hlt, hv]
    · by_cases hk : k = a
      · subst hk
        by_cases hv : v = unlistedWord
        · simp [Memory.write, hv, Memory.read_of_lt_all m k hlow]
        · simp [Memory.write, Memory.read, hv]
      · simp [Memory.write, Memory.read, hlt, hk, ih hm]

/-- A lower bound of the addresses stays one when a higher address is written. -/
theorem Memory.lt_all_write {m : Memory} {b a : Nat} {v : Word} (hab : b < a) (h : ∀ c ∈ m, b < c.1) :
    ∀ c ∈ Memory.write m a v, b < c.1 := by
  induction m with
  | nil =>
    intro d hd
    unfold Memory.write at hd
    split_ifs at hd
    · simp at hd
    · rw [List.mem_singleton.mp hd]
      exact hab
  | cons c m ih =>
    obtain ⟨k, u⟩ := c
    have hk : b < k := h (k, u) List.mem_cons_self
    have hm : ∀ c ∈ m, b < c.1 := fun d hd => h d (List.mem_cons_of_mem _ hd)
    intro d hd
    unfold Memory.write at hd
    split_ifs at hd with h1 h2 h3 h4
    · exact h d hd
    · rcases List.mem_cons.mp hd with rfl | hd
      exacts [hab, h d hd]
    · exact hm d hd
    · rcases List.mem_cons.mp hd with rfl | hd
      exacts [hab, hm d hd]
    · rcases List.mem_cons.mp hd with rfl | hd
      exacts [hk, ih hm d hd]

/-- A write inside the memory keeps the canonical form. -/
theorem Memory.write_wf {m : Memory} {a : Nat} {v : Word} (ha : a < memorySize) (h : Memory.wf m) :
    Memory.wf (Memory.write m a v) := by
  induction m with
  | nil =>
    by_cases hv : v = unlistedWord
    · simpa [Memory.write, hv] using h
    · simp [Memory.write, hv, Memory.wf, ha]
  | cons c m ih =>
    obtain ⟨k, u⟩ := c
    obtain ⟨hlow, hk, hu, hm⟩ := Memory.wf_cons.mp h
    unfold Memory.write
    split_ifs with h1 h2 h3 h4
    · exact h
    · refine Memory.wf_cons.mpr ⟨?_, ha, h2, h⟩
      intro d hd
      rcases List.mem_cons.mp hd with rfl | hd
      exacts [h1, lt_trans h1 (hlow d hd)]
    · exact hm
    · exact Memory.wf_cons.mpr ⟨fun d hd => h3 ▸ hlow d hd, ha, h4, hm⟩
    · exact Memory.wf_cons.mpr ⟨Memory.lt_all_write (by omega) hlow, hk, hu, ih hm⟩

/-- A 13-bit address is inside the memory (R52). -/
theorem addr_lt_memorySize (a : Addr) : a.toNat < memorySize := a.isLt

theorem State.readWord_writeWord_same (s : State) (a : Addr) (v : Word) (h : Memory.wf s.mem) :
    (s.writeWord a v).readWord a = v := Memory.read_write_same s.mem a.toNat v h

theorem State.readWord_writeWord_other (s : State) (a b : Addr) (v : Word) (h : b ≠ a) :
    (s.writeWord a v).readWord b = s.readWord b :=
  Memory.read_write_other s.mem a.toNat b.toNat v fun e => h (BitVec.eq_of_toNat_eq e)

theorem State.writeWord_wf (s : State) (a : Addr) (v : Word) (h : Memory.wf s.mem) :
    Memory.wf (s.writeWord a v).mem := Memory.write_wf (addr_lt_memorySize a) h

theorem reset_mem_wf : Memory.wf State.reset.mem := Memory.wf_nil

/-- Loading one pair keeps the canonical form. -/
theorem loadPair_wf {m m' : Memory} {pair : Nat × Nat} (h : Memory.wf m) (hl : loadPair m pair = .ok m') :
    Memory.wf m' := by
  unfold loadPair at hl
  split_ifs at hl with h1 h2
  cases hl
  exact Memory.write_wf (by omega) h

/-- Loading keeps the canonical form. -/
theorem loadPairs_wf {pairs : List (Nat × Nat)} :
    ∀ {m m' : Memory}, Memory.wf m → loadPairs m pairs = .ok m' → Memory.wf m' := by
  induction pairs with
  | nil =>
    intro m m' h hl
    cases hl
    exact h
  | cons pair rest ih =>
    intro m m' h hl
    unfold loadPairs at hl
    split at hl
    · next m1 h1 => exact ih (loadPair_wf h h1) hl
    · cases hl

/-- The fetch and the latches read and keep the memory. -/
@[simp] theorem State.fetched_readWord (s : State) (a : Addr) : s.fetched.readWord a = s.readWord a := rfl

@[simp] theorem State.latched_readWord (s : State) (ind : Bool) (y a : Addr) :
    (s.latched ind y).readWord a = s.readWord a := rfl

@[simp] theorem effectiveAddress_fetched (ind : Bool) (y : Addr) (s : State) :
    effectiveAddress ind y s.fetched = effectiveAddress ind y s := rfl

@[simp] theorem memoryBuffer_fetched (ind : Bool) (y : Addr) (s : State) :
    memoryBuffer ind y s.fetched = memoryBuffer ind y s := rfl

@[simp] theorem effectiveAddress_latched (ind : Bool) (y : Addr) (s : State) (ind' : Bool) (y' : Addr) :
    effectiveAddress ind y (s.latched ind' y') = effectiveAddress ind y s := rfl

@[simp] theorem memoryBuffer_latched (ind : Bool) (y : Addr) (s : State) (ind' : Bool) (y' : Addr) :
    memoryBuffer ind y (s.latched ind' y') = memoryBuffer ind y s := rfl

end Sys2Proof.Machine
end

