-- ==== Sys2Proof/Laws/State.lean ====
section
/-! SUPPORT. One lemma per field per named update of State, so that no proof unfolds an update. -/

namespace Sys2Proof.Machine

variable (s : State)

/-! ### writeWord -/

@[simp] theorem State.writeWord_mem (a : Addr) (v : Word) : (s.writeWord a v).mem = Memory.write s.mem a.toNat v := rfl
@[simp] theorem State.writeWord_ac (a : Addr) (v : Word) : (s.writeWord a v).ac = s.ac := rfl
@[simp] theorem State.writeWord_link (a : Addr) (v : Word) : (s.writeWord a v).link = s.link := rfl
@[simp] theorem State.writeWord_pc (a : Addr) (v : Word) : (s.writeWord a v).pc = s.pc := rfl
@[simp] theorem State.writeWord_ir (a : Addr) (v : Word) : (s.writeWord a v).ir = s.ir := rfl
@[simp] theorem State.writeWord_ea (a : Addr) (v : Word) : (s.writeWord a v).ea = s.ea := rfl
@[simp] theorem State.writeWord_mb (a : Addr) (v : Word) : (s.writeWord a v).mb = s.mb := rfl
@[simp] theorem State.writeWord_run (a : Addr) (v : Word) : (s.writeWord a v).run = s.run := rfl
@[simp] theorem State.writeWord_cycles (a : Addr) (v : Word) : (s.writeWord a v).cycles = s.cycles := rfl
@[simp] theorem State.writeWord_fault (a : Addr) (v : Word) : (s.writeWord a v).fault = s.fault := rfl
@[simp] theorem State.writeWord_mbxTty (a : Addr) (v : Word) : (s.writeWord a v).mbxTty = s.mbxTty := rfl
@[simp] theorem State.writeWord_mbxDsp (a : Addr) (v : Word) : (s.writeWord a v).mbxDsp = s.mbxDsp := rfl
@[simp] theorem State.writeWord_overwrites (a : Addr) (v : Word) : (s.writeWord a v).overwrites = s.overwrites := rfl
@[simp] theorem State.writeWord_prun (a : Addr) (v : Word) : (s.writeWord a v).prun = s.prun := rfl
@[simp] theorem State.writeWord_mode (a : Addr) (v : Word) : (s.writeWord a v).mode = s.mode := rfl
@[simp] theorem State.writeWord_curX (a : Addr) (v : Word) : (s.writeWord a v).curX = s.curX := rfl
@[simp] theorem State.writeWord_curY (a : Addr) (v : Word) : (s.writeWord a v).curY = s.curY := rfl
@[simp] theorem State.writeWord_tcurX (a : Addr) (v : Word) : (s.writeWord a v).tcurX = s.tcurX := rfl
@[simp] theorem State.writeWord_tcurY (a : Addr) (v : Word) : (s.writeWord a v).tcurY = s.tcurY := rfl
@[simp] theorem State.writeWord_trace (a : Addr) (v : Word) : (s.writeWord a v).trace = s.trace := rfl
@[simp] theorem State.writeWord_params (a : Addr) (v : Word) : (s.writeWord a v).params = s.params := rfl
@[simp] theorem State.writeWord_draws (a : Addr) (v : Word) : (s.writeWord a v).draws = s.draws := rfl
@[simp] theorem State.writeWord_wait (a : Addr) (v : Word) : (s.writeWord a v).wait = s.wait := rfl
@[simp] theorem State.writeWord_schedule (a : Addr) (v : Word) : (s.writeWord a v).schedule = s.schedule := rfl

/-! ### fetched -/

@[simp] theorem State.fetched_mem : s.fetched.mem = s.mem := rfl
@[simp] theorem State.fetched_ac : s.fetched.ac = s.ac := rfl
@[simp] theorem State.fetched_link : s.fetched.link = s.link := rfl
@[simp] theorem State.fetched_pc : s.fetched.pc = s.pc + 1 := rfl
@[simp] theorem State.fetched_ir : s.fetched.ir = s.fetchWord := rfl
@[simp] theorem State.fetched_ea : s.fetched.ea = s.ea := rfl
@[simp] theorem State.fetched_mb : s.fetched.mb = s.mb := rfl
@[simp] theorem State.fetched_run : s.fetched.run = s.run := rfl
@[simp] theorem State.fetched_cycles : s.fetched.cycles = s.cycles := rfl
@[simp] theorem State.fetched_fault : s.fetched.fault = s.fault := rfl
@[simp] theorem State.fetched_mbxTty : s.fetched.mbxTty = s.mbxTty := rfl
@[simp] theorem State.fetched_mbxDsp : s.fetched.mbxDsp = s.mbxDsp := rfl
@[simp] theorem State.fetched_overwrites : s.fetched.overwrites = s.overwrites := rfl
@[simp] theorem State.fetched_prun : s.fetched.prun = s.prun := rfl
@[simp] theorem State.fetched_mode : s.fetched.mode = s.mode := rfl
@[simp] theorem State.fetched_curX : s.fetched.curX = s.curX := rfl
@[simp] theorem State.fetched_curY : s.fetched.curY = s.curY := rfl
@[simp] theorem State.fetched_tcurX : s.fetched.tcurX = s.tcurX := rfl
@[simp] theorem State.fetched_tcurY : s.fetched.tcurY = s.tcurY := rfl
@[simp] theorem State.fetched_trace : s.fetched.trace = s.trace := rfl
@[simp] theorem State.fetched_params : s.fetched.params = s.params := rfl
@[simp] theorem State.fetched_draws : s.fetched.draws = s.draws := rfl
@[simp] theorem State.fetched_wait : s.fetched.wait = s.wait := rfl
@[simp] theorem State.fetched_schedule : s.fetched.schedule = s.schedule := rfl

/-! ### skipNext -/

@[simp] theorem State.skipNext_mem : s.skipNext.mem = s.mem := rfl
@[simp] theorem State.skipNext_ac : s.skipNext.ac = s.ac := rfl
@[simp] theorem State.skipNext_link : s.skipNext.link = s.link := rfl
@[simp] theorem State.skipNext_pc : s.skipNext.pc = s.pc + 1 := rfl
@[simp] theorem State.skipNext_ir : s.skipNext.ir = s.ir := rfl
@[simp] theorem State.skipNext_ea : s.skipNext.ea = s.ea := rfl
@[simp] theorem State.skipNext_mb : s.skipNext.mb = s.mb := rfl
@[simp] theorem State.skipNext_run : s.skipNext.run = s.run := rfl
@[simp] theorem State.skipNext_cycles : s.skipNext.cycles = s.cycles := rfl
@[simp] theorem State.skipNext_fault : s.skipNext.fault = s.fault := rfl
@[simp] theorem State.skipNext_mbxTty : s.skipNext.mbxTty = s.mbxTty := rfl
@[simp] theorem State.skipNext_mbxDsp : s.skipNext.mbxDsp = s.mbxDsp := rfl
@[simp] theorem State.skipNext_overwrites : s.skipNext.overwrites = s.overwrites := rfl
@[simp] theorem State.skipNext_prun : s.skipNext.prun = s.prun := rfl
@[simp] theorem State.skipNext_mode : s.skipNext.mode = s.mode := rfl
@[simp] theorem State.skipNext_curX : s.skipNext.curX = s.curX := rfl
@[simp] theorem State.skipNext_curY : s.skipNext.curY = s.curY := rfl
@[simp] theorem State.skipNext_tcurX : s.skipNext.tcurX = s.tcurX := rfl
@[simp] theorem State.skipNext_tcurY : s.skipNext.tcurY = s.tcurY := rfl
@[simp] theorem State.skipNext_trace : s.skipNext.trace = s.trace := rfl
@[simp] theorem State.skipNext_params : s.skipNext.params = s.params := rfl
@[simp] theorem State.skipNext_draws : s.skipNext.draws = s.draws := rfl
@[simp] theorem State.skipNext_wait : s.skipNext.wait = s.wait := rfl
@[simp] theorem State.skipNext_schedule : s.skipNext.schedule = s.schedule := rfl

/-! ### addCycles -/

@[simp] theorem State.addCycles_mem (n : Nat) : (s.addCycles n).mem = s.mem := rfl
@[simp] theorem State.addCycles_ac (n : Nat) : (s.addCycles n).ac = s.ac := rfl
@[simp] theorem State.addCycles_link (n : Nat) : (s.addCycles n).link = s.link := rfl
@[simp] theorem State.addCycles_pc (n : Nat) : (s.addCycles n).pc = s.pc := rfl
@[simp] theorem State.addCycles_ir (n : Nat) : (s.addCycles n).ir = s.ir := rfl
@[simp] theorem State.addCycles_ea (n : Nat) : (s.addCycles n).ea = s.ea := rfl
@[simp] theorem State.addCycles_mb (n : Nat) : (s.addCycles n).mb = s.mb := rfl
@[simp] theorem State.addCycles_run (n : Nat) : (s.addCycles n).run = s.run := rfl
@[simp] theorem State.addCycles_cycles (n : Nat) : (s.addCycles n).cycles = s.cycles + n := rfl
@[simp] theorem State.addCycles_fault (n : Nat) : (s.addCycles n).fault = s.fault := rfl
@[simp] theorem State.addCycles_mbxTty (n : Nat) : (s.addCycles n).mbxTty = s.mbxTty := rfl
@[simp] theorem State.addCycles_mbxDsp (n : Nat) : (s.addCycles n).mbxDsp = s.mbxDsp := rfl
@[simp] theorem State.addCycles_overwrites (n : Nat) : (s.addCycles n).overwrites = s.overwrites := rfl
@[simp] theorem State.addCycles_prun (n : Nat) : (s.addCycles n).prun = s.prun := rfl
@[simp] theorem State.addCycles_mode (n : Nat) : (s.addCycles n).mode = s.mode := rfl
@[simp] theorem State.addCycles_curX (n : Nat) : (s.addCycles n).curX = s.curX := rfl
@[simp] theorem State.addCycles_curY (n : Nat) : (s.addCycles n).curY = s.curY := rfl
@[simp] theorem State.addCycles_tcurX (n : Nat) : (s.addCycles n).tcurX = s.tcurX := rfl
@[simp] theorem State.addCycles_tcurY (n : Nat) : (s.addCycles n).tcurY = s.tcurY := rfl
@[simp] theorem State.addCycles_trace (n : Nat) : (s.addCycles n).trace = s.trace := rfl
@[simp] theorem State.addCycles_params (n : Nat) : (s.addCycles n).params = s.params := rfl
@[simp] theorem State.addCycles_draws (n : Nat) : (s.addCycles n).draws = s.draws := rfl
@[simp] theorem State.addCycles_wait (n : Nat) : (s.addCycles n).wait = s.wait := rfl
@[simp] theorem State.addCycles_schedule (n : Nat) : (s.addCycles n).schedule = s.schedule := rfl

/-! ### drawLatches -/

@[simp] theorem State.drawLatches_mem : s.drawLatches.mem = s.mem := rfl
@[simp] theorem State.drawLatches_ac : s.drawLatches.ac = s.ac := rfl
@[simp] theorem State.drawLatches_link : s.drawLatches.link = s.link := rfl
@[simp] theorem State.drawLatches_pc : s.drawLatches.pc = s.pc := rfl
@[simp] theorem State.drawLatches_ir : s.drawLatches.ir = s.ir := rfl
@[simp] theorem State.drawLatches_ea : s.drawLatches.ea = Config.drawEa s.draws := rfl
@[simp] theorem State.drawLatches_mb : s.drawLatches.mb = Config.drawMb s.draws := rfl
@[simp] theorem State.drawLatches_run : s.drawLatches.run = s.run := rfl
@[simp] theorem State.drawLatches_cycles : s.drawLatches.cycles = s.cycles := rfl
@[simp] theorem State.drawLatches_fault : s.drawLatches.fault = s.fault := rfl
@[simp] theorem State.drawLatches_mbxTty : s.drawLatches.mbxTty = s.mbxTty := rfl
@[simp] theorem State.drawLatches_mbxDsp : s.drawLatches.mbxDsp = s.mbxDsp := rfl
@[simp] theorem State.drawLatches_overwrites : s.drawLatches.overwrites = s.overwrites := rfl
@[simp] theorem State.drawLatches_prun : s.drawLatches.prun = s.prun := rfl
@[simp] theorem State.drawLatches_mode : s.drawLatches.mode = s.mode := rfl
@[simp] theorem State.drawLatches_curX : s.drawLatches.curX = s.curX := rfl
@[simp] theorem State.drawLatches_curY : s.drawLatches.curY = s.curY := rfl
@[simp] theorem State.drawLatches_tcurX : s.drawLatches.tcurX = s.tcurX := rfl
@[simp] theorem State.drawLatches_tcurY : s.drawLatches.tcurY = s.tcurY := rfl
@[simp] theorem State.drawLatches_trace : s.drawLatches.trace = s.trace := rfl
@[simp] theorem State.drawLatches_params : s.drawLatches.params = s.params := rfl
@[simp] theorem State.drawLatches_draws : s.drawLatches.draws = s.draws + 1 := rfl
@[simp] theorem State.drawLatches_wait : s.drawLatches.wait = s.wait := rfl
@[simp] theorem State.drawLatches_schedule : s.drawLatches.schedule = s.schedule := rfl

/-! ### latched -/

@[simp] theorem State.latched_mem (ind : Bool) (y : Addr) : (s.latched ind y).mem = s.mem := rfl
@[simp] theorem State.latched_ac (ind : Bool) (y : Addr) : (s.latched ind y).ac = s.ac := rfl
@[simp] theorem State.latched_link (ind : Bool) (y : Addr) : (s.latched ind y).link = s.link := rfl
@[simp] theorem State.latched_pc (ind : Bool) (y : Addr) : (s.latched ind y).pc = s.pc := rfl
@[simp] theorem State.latched_ir (ind : Bool) (y : Addr) : (s.latched ind y).ir = s.ir := rfl
@[simp] theorem State.latched_ea (ind : Bool) (y : Addr) : (s.latched ind y).ea = effectiveAddress ind y s := rfl
@[simp] theorem State.latched_mb (ind : Bool) (y : Addr) : (s.latched ind y).mb = memoryBuffer ind y s := rfl
@[simp] theorem State.latched_run (ind : Bool) (y : Addr) : (s.latched ind y).run = s.run := rfl
@[simp] theorem State.latched_cycles (ind : Bool) (y : Addr) : (s.latched ind y).cycles = s.cycles := rfl
@[simp] theorem State.latched_fault (ind : Bool) (y : Addr) : (s.latched ind y).fault = s.fault := rfl
@[simp] theorem State.latched_mbxTty (ind : Bool) (y : Addr) : (s.latched ind y).mbxTty = s.mbxTty := rfl
@[simp] theorem State.latched_mbxDsp (ind : Bool) (y : Addr) : (s.latched ind y).mbxDsp = s.mbxDsp := rfl
@[simp] theorem State.latched_overwrites (ind : Bool) (y : Addr) : (s.latched ind y).overwrites = s.overwrites := rfl
@[simp] theorem State.latched_prun (ind : Bool) (y : Addr) : (s.latched ind y).prun = s.prun := rfl
@[simp] theorem State.latched_mode (ind : Bool) (y : Addr) : (s.latched ind y).mode = s.mode := rfl
@[simp] theorem State.latched_curX (ind : Bool) (y : Addr) : (s.latched ind y).curX = s.curX := rfl
@[simp] theorem State.latched_curY (ind : Bool) (y : Addr) : (s.latched ind y).curY = s.curY := rfl
@[simp] theorem State.latched_tcurX (ind : Bool) (y : Addr) : (s.latched ind y).tcurX = s.tcurX := rfl
@[simp] theorem State.latched_tcurY (ind : Bool) (y : Addr) : (s.latched ind y).tcurY = s.tcurY := rfl
@[simp] theorem State.latched_trace (ind : Bool) (y : Addr) : (s.latched ind y).trace = s.trace := rfl
@[simp] theorem State.latched_params (ind : Bool) (y : Addr) : (s.latched ind y).params = s.params := rfl
@[simp] theorem State.latched_draws (ind : Bool) (y : Addr) : (s.latched ind y).draws = s.draws := rfl
@[simp] theorem State.latched_wait (ind : Bool) (y : Addr) : (s.latched ind y).wait = s.wait := rfl
@[simp] theorem State.latched_schedule (ind : Bool) (y : Addr) : (s.latched ind y).schedule = s.schedule := rfl

/-! ### takeFault -/

@[simp] theorem State.takeFault_mem (c : FaultCause) (w : Word) (a : Addr) : (takeFault c w a s).mem = s.mem := rfl
@[simp] theorem State.takeFault_ac (c : FaultCause) (w : Word) (a : Addr) : (takeFault c w a s).ac = s.ac := rfl
@[simp] theorem State.takeFault_link (c : FaultCause) (w : Word) (a : Addr) : (takeFault c w a s).link = s.link := rfl
@[simp] theorem State.takeFault_pc (c : FaultCause) (w : Word) (a : Addr) : (takeFault c w a s).pc = s.pc := rfl
@[simp] theorem State.takeFault_ir (c : FaultCause) (w : Word) (a : Addr) : (takeFault c w a s).ir = s.ir := rfl
@[simp] theorem State.takeFault_ea (c : FaultCause) (w : Word) (a : Addr) : (takeFault c w a s).ea = s.ea := rfl
@[simp] theorem State.takeFault_mb (c : FaultCause) (w : Word) (a : Addr) : (takeFault c w a s).mb = s.mb := rfl
@[simp] theorem State.takeFault_run (c : FaultCause) (w : Word) (a : Addr) : (takeFault c w a s).run = s.run := rfl
@[simp] theorem State.takeFault_cycles (c : FaultCause) (w : Word) (a : Addr) : (takeFault c w a s).cycles = s.cycles := rfl
@[simp] theorem State.takeFault_fault (c : FaultCause) (w : Word) (a : Addr) : (takeFault c w a s).fault = some { cause := c, word := w, pc := a } := rfl
@[simp] theorem State.takeFault_mbxTty (c : FaultCause) (w : Word) (a : Addr) : (takeFault c w a s).mbxTty = s.mbxTty := rfl
@[simp] theorem State.takeFault_mbxDsp (c : FaultCause) (w : Word) (a : Addr) : (takeFault c w a s).mbxDsp = s.mbxDsp := rfl
@[simp] theorem State.takeFault_overwrites (c : FaultCause) (w : Word) (a : Addr) : (takeFault c w a s).overwrites = s.overwrites := rfl
@[simp] theorem State.takeFault_prun (c : FaultCause) (w : Word) (a : Addr) : (takeFault c w a s).prun = false := rfl
@[simp] theorem State.takeFault_mode (c : FaultCause) (w : Word) (a : Addr) : (takeFault c w a s).mode = s.mode := rfl
@[simp] theorem State.takeFault_curX (c : FaultCause) (w : Word) (a : Addr) : (takeFault c w a s).curX = s.curX := rfl
@[simp] theorem State.takeFault_curY (c : FaultCause) (w : Word) (a : Addr) : (takeFault c w a s).curY = s.curY := rfl
@[simp] theorem State.takeFault_tcurX (c : FaultCause) (w : Word) (a : Addr) : (takeFault c w a s).tcurX = s.tcurX := rfl
@[simp] theorem State.takeFault_tcurY (c : FaultCause) (w : Word) (a : Addr) : (takeFault c w a s).tcurY = s.tcurY := rfl
@[simp] theorem State.takeFault_trace (c : FaultCause) (w : Word) (a : Addr) : (takeFault c w a s).trace = s.trace := rfl
@[simp] theorem State.takeFault_params (c : FaultCause) (w : Word) (a : Addr) : (takeFault c w a s).params = s.params := rfl
@[simp] theorem State.takeFault_draws (c : FaultCause) (w : Word) (a : Addr) : (takeFault c w a s).draws = s.draws := rfl
@[simp] theorem State.takeFault_wait (c : FaultCause) (w : Word) (a : Addr) : (takeFault c w a s).wait = s.wait := rfl
@[simp] theorem State.takeFault_schedule (c : FaultCause) (w : Word) (a : Addr) : (takeFault c w a s).schedule = s.schedule := rfl

/-! ### withTty -/

@[simp] theorem State.withTty_mem (v : Word) : (s.withMailbox .tty v).mem = s.mem := rfl
@[simp] theorem State.withTty_ac (v : Word) : (s.withMailbox .tty v).ac = s.ac := rfl
@[simp] theorem State.withTty_link (v : Word) : (s.withMailbox .tty v).link = s.link := rfl
@[simp] theorem State.withTty_pc (v : Word) : (s.withMailbox .tty v).pc = s.pc := rfl
@[simp] theorem State.withTty_ir (v : Word) : (s.withMailbox .tty v).ir = s.ir := rfl
@[simp] theorem State.withTty_ea (v : Word) : (s.withMailbox .tty v).ea = s.ea := rfl
@[simp] theorem State.withTty_mb (v : Word) : (s.withMailbox .tty v).mb = s.mb := rfl
@[simp] theorem State.withTty_run (v : Word) : (s.withMailbox .tty v).run = s.run := rfl
@[simp] theorem State.withTty_cycles (v : Word) : (s.withMailbox .tty v).cycles = s.cycles := rfl
@[simp] theorem State.withTty_fault (v : Word) : (s.withMailbox .tty v).fault = s.fault := rfl
@[simp] theorem State.withTty_mbxTty (v : Word) : (s.withMailbox .tty v).mbxTty = v := rfl
@[simp] theorem State.withTty_mbxDsp (v : Word) : (s.withMailbox .tty v).mbxDsp = s.mbxDsp := rfl
@[simp] theorem State.withTty_overwrites (v : Word) : (s.withMailbox .tty v).overwrites = s.overwrites := rfl
@[simp] theorem State.withTty_prun (v : Word) : (s.withMailbox .tty v).prun = s.prun := rfl
@[simp] theorem State.withTty_mode (v : Word) : (s.withMailbox .tty v).mode = s.mode := rfl
@[simp] theorem State.withTty_curX (v : Word) : (s.withMailbox .tty v).curX = s.curX := rfl
@[simp] theorem State.withTty_curY (v : Word) : (s.withMailbox .tty v).curY = s.curY := rfl
@[simp] theorem State.withTty_tcurX (v : Word) : (s.withMailbox .tty v).tcurX = s.tcurX := rfl
@[simp] theorem State.withTty_tcurY (v : Word) : (s.withMailbox .tty v).tcurY = s.tcurY := rfl
@[simp] theorem State.withTty_trace (v : Word) : (s.withMailbox .tty v).trace = s.trace := rfl
@[simp] theorem State.withTty_params (v : Word) : (s.withMailbox .tty v).params = s.params := rfl
@[simp] theorem State.withTty_draws (v : Word) : (s.withMailbox .tty v).draws = s.draws := rfl
@[simp] theorem State.withTty_wait (v : Word) : (s.withMailbox .tty v).wait = s.wait := rfl
@[simp] theorem State.withTty_schedule (v : Word) : (s.withMailbox .tty v).schedule = s.schedule := rfl

/-! ### withDsp -/

@[simp] theorem State.withDsp_mem (v : Word) : (s.withMailbox .dsp v).mem = s.mem := rfl
@[simp] theorem State.withDsp_ac (v : Word) : (s.withMailbox .dsp v).ac = s.ac := rfl
@[simp] theorem State.withDsp_link (v : Word) : (s.withMailbox .dsp v).link = s.link := rfl
@[simp] theorem State.withDsp_pc (v : Word) : (s.withMailbox .dsp v).pc = s.pc := rfl
@[simp] theorem State.withDsp_ir (v : Word) : (s.withMailbox .dsp v).ir = s.ir := rfl
@[simp] theorem State.withDsp_ea (v : Word) : (s.withMailbox .dsp v).ea = s.ea := rfl
@[simp] theorem State.withDsp_mb (v : Word) : (s.withMailbox .dsp v).mb = s.mb := rfl
@[simp] theorem State.withDsp_run (v : Word) : (s.withMailbox .dsp v).run = s.run := rfl
@[simp] theorem State.withDsp_cycles (v : Word) : (s.withMailbox .dsp v).cycles = s.cycles := rfl
@[simp] theorem State.withDsp_fault (v : Word) : (s.withMailbox .dsp v).fault = s.fault := rfl
@[simp] theorem State.withDsp_mbxTty (v : Word) : (s.withMailbox .dsp v).mbxTty = s.mbxTty := rfl
@[simp] theorem State.withDsp_mbxDsp (v : Word) : (s.withMailbox .dsp v).mbxDsp = v := rfl
@[simp] theorem State.withDsp_overwrites (v : Word) : (s.withMailbox .dsp v).overwrites = s.overwrites := rfl
@[simp] theorem State.withDsp_prun (v : Word) : (s.withMailbox .dsp v).prun = s.prun := rfl
@[simp] theorem State.withDsp_mode (v : Word) : (s.withMailbox .dsp v).mode = s.mode := rfl
@[simp] theorem State.withDsp_curX (v : Word) : (s.withMailbox .dsp v).curX = s.curX := rfl
@[simp] theorem State.withDsp_curY (v : Word) : (s.withMailbox .dsp v).curY = s.curY := rfl
@[simp] theorem State.withDsp_tcurX (v : Word) : (s.withMailbox .dsp v).tcurX = s.tcurX := rfl
@[simp] theorem State.withDsp_tcurY (v : Word) : (s.withMailbox .dsp v).tcurY = s.tcurY := rfl
@[simp] theorem State.withDsp_trace (v : Word) : (s.withMailbox .dsp v).trace = s.trace := rfl
@[simp] theorem State.withDsp_params (v : Word) : (s.withMailbox .dsp v).params = s.params := rfl
@[simp] theorem State.withDsp_draws (v : Word) : (s.withMailbox .dsp v).draws = s.draws := rfl
@[simp] theorem State.withDsp_wait (v : Word) : (s.withMailbox .dsp v).wait = s.wait := rfl
@[simp] theorem State.withDsp_schedule (v : Word) : (s.withMailbox .dsp v).schedule = s.schedule := rfl

/-! ### emit -/

@[simp] theorem State.emit_mem (calls : List SurfaceCall) : (s.emit calls).mem = s.mem := rfl
@[simp] theorem State.emit_ac (calls : List SurfaceCall) : (s.emit calls).ac = s.ac := rfl
@[simp] theorem State.emit_link (calls : List SurfaceCall) : (s.emit calls).link = s.link := rfl
@[simp] theorem State.emit_pc (calls : List SurfaceCall) : (s.emit calls).pc = s.pc := rfl
@[simp] theorem State.emit_ir (calls : List SurfaceCall) : (s.emit calls).ir = s.ir := rfl
@[simp] theorem State.emit_ea (calls : List SurfaceCall) : (s.emit calls).ea = s.ea := rfl
@[simp] theorem State.emit_mb (calls : List SurfaceCall) : (s.emit calls).mb = s.mb := rfl
@[simp] theorem State.emit_run (calls : List SurfaceCall) : (s.emit calls).run = s.run := rfl
@[simp] theorem State.emit_cycles (calls : List SurfaceCall) : (s.emit calls).cycles = s.cycles := rfl
@[simp] theorem State.emit_fault (calls : List SurfaceCall) : (s.emit calls).fault = s.fault := rfl
@[simp] theorem State.emit_mbxTty (calls : List SurfaceCall) : (s.emit calls).mbxTty = s.mbxTty := rfl
@[simp] theorem State.emit_mbxDsp (calls : List SurfaceCall) : (s.emit calls).mbxDsp = s.mbxDsp := rfl
@[simp] theorem State.emit_overwrites (calls : List SurfaceCall) : (s.emit calls).overwrites = s.overwrites := rfl
@[simp] theorem State.emit_prun (calls : List SurfaceCall) : (s.emit calls).prun = s.prun := rfl
@[simp] theorem State.emit_mode (calls : List SurfaceCall) : (s.emit calls).mode = s.mode := rfl
@[simp] theorem State.emit_curX (calls : List SurfaceCall) : (s.emit calls).curX = s.curX := rfl
@[simp] theorem State.emit_curY (calls : List SurfaceCall) : (s.emit calls).curY = s.curY := rfl
@[simp] theorem State.emit_tcurX (calls : List SurfaceCall) : (s.emit calls).tcurX = s.tcurX := rfl
@[simp] theorem State.emit_tcurY (calls : List SurfaceCall) : (s.emit calls).tcurY = s.tcurY := rfl
@[simp] theorem State.emit_trace (calls : List SurfaceCall) : (s.emit calls).trace = s.trace ++ calls ++ [.present] := rfl
@[simp] theorem State.emit_params (calls : List SurfaceCall) : (s.emit calls).params = s.params := rfl
@[simp] theorem State.emit_draws (calls : List SurfaceCall) : (s.emit calls).draws = s.draws := rfl
@[simp] theorem State.emit_wait (calls : List SurfaceCall) : (s.emit calls).wait = s.wait := rfl
@[simp] theorem State.emit_schedule (calls : List SurfaceCall) : (s.emit calls).schedule = s.schedule := rfl

/-! ### afterWait -/

@[simp] theorem State.afterWait_mem : s.afterWait.mem = s.mem := rfl
@[simp] theorem State.afterWait_ac : s.afterWait.ac = s.ac := rfl
@[simp] theorem State.afterWait_link : s.afterWait.link = s.link := rfl
@[simp] theorem State.afterWait_pc : s.afterWait.pc = s.pc := rfl
@[simp] theorem State.afterWait_ir : s.afterWait.ir = s.ir := rfl
@[simp] theorem State.afterWait_ea : s.afterWait.ea = s.ea := rfl
@[simp] theorem State.afterWait_mb : s.afterWait.mb = s.mb := rfl
@[simp] theorem State.afterWait_run : s.afterWait.run = s.run := rfl
@[simp] theorem State.afterWait_cycles : s.afterWait.cycles = s.cycles := rfl
@[simp] theorem State.afterWait_fault : s.afterWait.fault = s.fault := rfl
@[simp] theorem State.afterWait_mbxTty : s.afterWait.mbxTty = s.mbxTty := rfl
@[simp] theorem State.afterWait_mbxDsp : s.afterWait.mbxDsp = s.mbxDsp := rfl
@[simp] theorem State.afterWait_overwrites : s.afterWait.overwrites = s.overwrites := rfl
@[simp] theorem State.afterWait_prun : s.afterWait.prun = s.prun := rfl
@[simp] theorem State.afterWait_mode : s.afterWait.mode = s.mode := rfl
@[simp] theorem State.afterWait_curX : s.afterWait.curX = s.curX := rfl
@[simp] theorem State.afterWait_curY : s.afterWait.curY = s.curY := rfl
@[simp] theorem State.afterWait_tcurX : s.afterWait.tcurX = s.tcurX := rfl
@[simp] theorem State.afterWait_tcurY : s.afterWait.tcurY = s.tcurY := rfl
@[simp] theorem State.afterWait_trace : s.afterWait.trace = s.trace := rfl
@[simp] theorem State.afterWait_params : s.afterWait.params = s.params := rfl
@[simp] theorem State.afterWait_draws : s.afterWait.draws = if s.wait.isNone then s.draws + 1 else s.draws := rfl
@[simp] theorem State.afterWait_wait : s.afterWait.wait = if waitLeft s = 0 then none else some (waitLeft s - 1) := rfl
@[simp] theorem State.afterWait_schedule : s.afterWait.schedule = s.schedule := rfl

/-! ### withoutWait -/

@[simp] theorem State.withoutWait_mem : s.withoutWait.mem = s.mem := rfl
@[simp] theorem State.withoutWait_ac : s.withoutWait.ac = s.ac := rfl
@[simp] theorem State.withoutWait_link : s.withoutWait.link = s.link := rfl
@[simp] theorem State.withoutWait_pc : s.withoutWait.pc = s.pc := rfl
@[simp] theorem State.withoutWait_ir : s.withoutWait.ir = s.ir := rfl
@[simp] theorem State.withoutWait_ea : s.withoutWait.ea = s.ea := rfl
@[simp] theorem State.withoutWait_mb : s.withoutWait.mb = s.mb := rfl
@[simp] theorem State.withoutWait_run : s.withoutWait.run = s.run := rfl
@[simp] theorem State.withoutWait_cycles : s.withoutWait.cycles = s.cycles := rfl
@[simp] theorem State.withoutWait_fault : s.withoutWait.fault = s.fault := rfl
@[simp] theorem State.withoutWait_mbxTty : s.withoutWait.mbxTty = s.mbxTty := rfl
@[simp] theorem State.withoutWait_mbxDsp : s.withoutWait.mbxDsp = s.mbxDsp := rfl
@[simp] theorem State.withoutWait_overwrites : s.withoutWait.overwrites = s.overwrites := rfl
@[simp] theorem State.withoutWait_prun : s.withoutWait.prun = s.prun := rfl
@[simp] theorem State.withoutWait_mode : s.withoutWait.mode = s.mode := rfl
@[simp] theorem State.withoutWait_curX : s.withoutWait.curX = s.curX := rfl
@[simp] theorem State.withoutWait_curY : s.withoutWait.curY = s.curY := rfl
@[simp] theorem State.withoutWait_tcurX : s.withoutWait.tcurX = s.tcurX := rfl
@[simp] theorem State.withoutWait_tcurY : s.withoutWait.tcurY = s.tcurY := rfl
@[simp] theorem State.withoutWait_trace : s.withoutWait.trace = s.trace := rfl
@[simp] theorem State.withoutWait_params : s.withoutWait.params = s.params := rfl
@[simp] theorem State.withoutWait_draws : s.withoutWait.draws = s.draws := rfl
@[simp] theorem State.withoutWait_wait : s.withoutWait.wait = none := rfl
@[simp] theorem State.withoutWait_schedule : s.withoutWait.schedule = s.schedule := rfl

/-! ### hostStopCpu -/

@[simp] theorem State.hostStopCpu_mem : (hostStopCpu s).mem = s.mem := rfl
@[simp] theorem State.hostStopCpu_ac : (hostStopCpu s).ac = s.ac := rfl
@[simp] theorem State.hostStopCpu_link : (hostStopCpu s).link = s.link := rfl
@[simp] theorem State.hostStopCpu_pc : (hostStopCpu s).pc = s.pc := rfl
@[simp] theorem State.hostStopCpu_ir : (hostStopCpu s).ir = s.ir := rfl
@[simp] theorem State.hostStopCpu_ea : (hostStopCpu s).ea = s.ea := rfl
@[simp] theorem State.hostStopCpu_mb : (hostStopCpu s).mb = s.mb := rfl
@[simp] theorem State.hostStopCpu_run : (hostStopCpu s).run = false := rfl
@[simp] theorem State.hostStopCpu_cycles : (hostStopCpu s).cycles = s.cycles := rfl
@[simp] theorem State.hostStopCpu_fault : (hostStopCpu s).fault = s.fault := rfl
@[simp] theorem State.hostStopCpu_mbxTty : (hostStopCpu s).mbxTty = s.mbxTty := rfl
@[simp] theorem State.hostStopCpu_mbxDsp : (hostStopCpu s).mbxDsp = s.mbxDsp := rfl
@[simp] theorem State.hostStopCpu_overwrites : (hostStopCpu s).overwrites = s.overwrites := rfl
@[simp] theorem State.hostStopCpu_prun : (hostStopCpu s).prun = s.prun := rfl
@[simp] theorem State.hostStopCpu_mode : (hostStopCpu s).mode = s.mode := rfl
@[simp] theorem State.hostStopCpu_curX : (hostStopCpu s).curX = s.curX := rfl
@[simp] theorem State.hostStopCpu_curY : (hostStopCpu s).curY = s.curY := rfl
@[simp] theorem State.hostStopCpu_tcurX : (hostStopCpu s).tcurX = s.tcurX := rfl
@[simp] theorem State.hostStopCpu_tcurY : (hostStopCpu s).tcurY = s.tcurY := rfl
@[simp] theorem State.hostStopCpu_trace : (hostStopCpu s).trace = s.trace := rfl
@[simp] theorem State.hostStopCpu_params : (hostStopCpu s).params = s.params := rfl
@[simp] theorem State.hostStopCpu_draws : (hostStopCpu s).draws = s.draws := rfl
@[simp] theorem State.hostStopCpu_wait : (hostStopCpu s).wait = s.wait := rfl
@[simp] theorem State.hostStopCpu_schedule : (hostStopCpu s).schedule = s.schedule := rfl

/-! ### hostStopPeripheral -/

@[simp] theorem State.hostStopPeripheral_mem : (hostStopPeripheral s).mem = s.mem := rfl
@[simp] theorem State.hostStopPeripheral_ac : (hostStopPeripheral s).ac = s.ac := rfl
@[simp] theorem State.hostStopPeripheral_link : (hostStopPeripheral s).link = s.link := rfl
@[simp] theorem State.hostStopPeripheral_pc : (hostStopPeripheral s).pc = s.pc := rfl
@[simp] theorem State.hostStopPeripheral_ir : (hostStopPeripheral s).ir = s.ir := rfl
@[simp] theorem State.hostStopPeripheral_ea : (hostStopPeripheral s).ea = s.ea := rfl
@[simp] theorem State.hostStopPeripheral_mb : (hostStopPeripheral s).mb = s.mb := rfl
@[simp] theorem State.hostStopPeripheral_run : (hostStopPeripheral s).run = s.run := rfl
@[simp] theorem State.hostStopPeripheral_cycles : (hostStopPeripheral s).cycles = s.cycles := rfl
@[simp] theorem State.hostStopPeripheral_fault : (hostStopPeripheral s).fault = s.fault := rfl
@[simp] theorem State.hostStopPeripheral_mbxTty : (hostStopPeripheral s).mbxTty = s.mbxTty := rfl
@[simp] theorem State.hostStopPeripheral_mbxDsp : (hostStopPeripheral s).mbxDsp = s.mbxDsp := rfl
@[simp] theorem State.hostStopPeripheral_overwrites : (hostStopPeripheral s).overwrites = s.overwrites := rfl
@[simp] theorem State.hostStopPeripheral_prun : (hostStopPeripheral s).prun = false := rfl
@[simp] theorem State.hostStopPeripheral_mode : (hostStopPeripheral s).mode = s.mode := rfl
@[simp] theorem State.hostStopPeripheral_curX : (hostStopPeripheral s).curX = s.curX := rfl
@[simp] theorem State.hostStopPeripheral_curY : (hostStopPeripheral s).curY = s.curY := rfl
@[simp] theorem State.hostStopPeripheral_tcurX : (hostStopPeripheral s).tcurX = s.tcurX := rfl
@[simp] theorem State.hostStopPeripheral_tcurY : (hostStopPeripheral s).tcurY = s.tcurY := rfl
@[simp] theorem State.hostStopPeripheral_trace : (hostStopPeripheral s).trace = s.trace := rfl
@[simp] theorem State.hostStopPeripheral_params : (hostStopPeripheral s).params = s.params := rfl
@[simp] theorem State.hostStopPeripheral_draws : (hostStopPeripheral s).draws = s.draws := rfl
@[simp] theorem State.hostStopPeripheral_wait : (hostStopPeripheral s).wait = s.wait := rfl
@[simp] theorem State.hostStopPeripheral_schedule : (hostStopPeripheral s).schedule = s.schedule := rfl

/-! ### skipWhen -/

@[simp] theorem State.skipWhen_mem (c : Bool) : (s.skipWhen c).mem = s.mem := by cases c <;> rfl
@[simp] theorem State.skipWhen_ac (c : Bool) : (s.skipWhen c).ac = s.ac := by cases c <;> rfl
@[simp] theorem State.skipWhen_link (c : Bool) : (s.skipWhen c).link = s.link := by cases c <;> rfl
@[simp] theorem State.skipWhen_pc (c : Bool) : (s.skipWhen c).pc = if c then s.pc + 1 else s.pc := by
  cases c <;> rfl
@[simp] theorem State.skipWhen_ir (c : Bool) : (s.skipWhen c).ir = s.ir := by cases c <;> rfl
@[simp] theorem State.skipWhen_ea (c : Bool) : (s.skipWhen c).ea = s.ea := by cases c <;> rfl
@[simp] theorem State.skipWhen_mb (c : Bool) : (s.skipWhen c).mb = s.mb := by cases c <;> rfl
@[simp] theorem State.skipWhen_run (c : Bool) : (s.skipWhen c).run = s.run := by cases c <;> rfl
@[simp] theorem State.skipWhen_cycles (c : Bool) : (s.skipWhen c).cycles = s.cycles := by cases c <;> rfl
@[simp] theorem State.skipWhen_fault (c : Bool) : (s.skipWhen c).fault = s.fault := by cases c <;> rfl
@[simp] theorem State.skipWhen_mbxTty (c : Bool) : (s.skipWhen c).mbxTty = s.mbxTty := by cases c <;> rfl
@[simp] theorem State.skipWhen_mbxDsp (c : Bool) : (s.skipWhen c).mbxDsp = s.mbxDsp := by cases c <;> rfl
@[simp] theorem State.skipWhen_overwrites (c : Bool) : (s.skipWhen c).overwrites = s.overwrites := by cases c <;> rfl
@[simp] theorem State.skipWhen_prun (c : Bool) : (s.skipWhen c).prun = s.prun := by cases c <;> rfl
@[simp] theorem State.skipWhen_mode (c : Bool) : (s.skipWhen c).mode = s.mode := by cases c <;> rfl
@[simp] theorem State.skipWhen_curX (c : Bool) : (s.skipWhen c).curX = s.curX := by cases c <;> rfl
@[simp] theorem State.skipWhen_curY (c : Bool) : (s.skipWhen c).curY = s.curY := by cases c <;> rfl
@[simp] theorem State.skipWhen_tcurX (c : Bool) : (s.skipWhen c).tcurX = s.tcurX := by cases c <;> rfl
@[simp] theorem State.skipWhen_tcurY (c : Bool) : (s.skipWhen c).tcurY = s.tcurY := by cases c <;> rfl
@[simp] theorem State.skipWhen_trace (c : Bool) : (s.skipWhen c).trace = s.trace := by cases c <;> rfl
@[simp] theorem State.skipWhen_params (c : Bool) : (s.skipWhen c).params = s.params := by cases c <;> rfl
@[simp] theorem State.skipWhen_draws (c : Bool) : (s.skipWhen c).draws = s.draws := by cases c <;> rfl
@[simp] theorem State.skipWhen_wait (c : Bool) : (s.skipWhen c).wait = s.wait := by cases c <;> rfl
@[simp] theorem State.skipWhen_schedule (c : Bool) : (s.skipWhen c).schedule = s.schedule := by cases c <;> rfl

end Sys2Proof.Machine
end

