-- ==== Sys2Proof/Laws/Ops.lean ====
section
/-! SUPPORT. For each shared operation, once, everything it can do: effects and how a step ends
(spec/40_cycle.md R100, R109, R113), the mailbox write (spec/43_iot_mailbox.md R185, R186), the operate
word (spec/42_operate.md R151), the choice of a turn (spec/70_reset_and_hazards.md R275, R276). -/

namespace Sys2Proof.Machine

/-! ### Effects -/

@[simp] theorem Effect.map_done (f : State → State) (s : State) : (Effect.done s).map f = .done (f s) := rfl

@[simp] theorem Effect.map_hold (f : State → State) : Effect.hold.map f = .hold := rfl

@[simp] theorem Effect.map_trap (f : State → State) (c : FaultCause) (w : Word) :
    (Effect.trap c w).map f = .trap c w := rfl

@[simp] theorem Effect.charge_done (n : Nat) (s : State) : (Effect.done s).charge n = .done (s.addCycles n) := rfl

@[simp] theorem Effect.charge_hold (n : Nat) : Effect.hold.charge n = .hold := rfl

@[simp] theorem Effect.charge_trap (n : Nat) (c : FaultCause) (w : Word) :
    (Effect.trap c w).charge n = .trap c w := rfl

/-- A charged effect is done exactly when the effect was, one addition to CYCLES later. -/
theorem Effect.charge_eq_done {e : Effect} {n : Nat} {t : State} :
    e.charge n = .done t ↔ ∃ u, e = .done u ∧ t = u.addCycles n := by
  cases e <;> simp [eq_comm]

theorem Effect.map_eq_done {e : Effect} {f : State → State} {t : State} :
    e.map f = .done t ↔ ∃ u, e = .done u ∧ t = f u := by
  cases e <;> simp [eq_comm]

theorem Effect.charge_eq_hold {e : Effect} {n : Nat} : e.charge n = .hold ↔ e = .hold := by
  cases e <;> simp

theorem Effect.charge_eq_trap {e : Effect} {n : Nat} {c : FaultCause} {w : Word} :
    e.charge n = .trap c w ↔ e = .trap c w := by
  cases e <;> simp

/-! ### A skip -/

/-- A skip writes only PC (R107). -/
theorem State.skipWhen_eq (s : State) (c : Bool) : s.skipWhen c = { s with pc := if c then s.pc + 1 else s.pc } := by
  cases c <;> rfl

/-! ### The end of a CPU step -/

@[simp] theorem finishStep_done (b p s : State) : finishStep b p (.done s) = .next s := rfl

@[simp] theorem finishStep_hold (b p : State) : finishStep b p .hold = .next b := rfl

@[simp] theorem finishStep_trap (b p : State) (c : FaultCause) (w : Word) :
    finishStep b p (.trap c w) = .next (takeFault c w b.pc p) := rfl

/-- A step ends in the effect's state, in the state before it when it holds, or with its fault recorded. -/
theorem finishStep_cases {b p t : State} {e : Effect} (h : finishStep b p e = .next t) :
    e = .done t ∨ (e = .hold ∧ t = b) ∨ ∃ c w, e = .trap c w ∧ t = takeFault c w b.pc p := by
  cases e with
  | done s => exact .inl (by simpa using h)
  | hold => exact .inr (.inl ⟨rfl, by simpa using h.symm⟩)
  | trap c w => exact .inr (.inr ⟨c, w, rfl, by simpa using h.symm⟩)

/-- A CPU step that gets as far as an effect always has a next state. -/
theorem finishStep_next (b p : State) (e : Effect) : ∃ t, finishStep b p e = .next t := by
  cases e <;> exact ⟨_, rfl⟩

/-! ### The shapes of an instruction -/

/-- A memory-reference effect is always done: the act on the address and the buffer, and the cost. -/
theorem memrefEffect_eq (cost : CycTable → Nat) (act : Addr → Word → State → State) (ind : Bool) (y : Addr)
    (s : State) : memrefEffect cost act ind y s =
      .done ((act (effectiveAddress ind y s) (memoryBuffer ind y s) s).addCycles
        (cost s.params.cyc + indirectCost ind)) := rfl

/-- The whole step of a memory-reference instruction other than XCT. -/
theorem memrefStep_eq (cost : CycTable → Nat) (act : Addr → Word → State → State) (ind : Bool) (y : Addr)
    (s : State) : memrefStep cost act ind y s =
      .next ((act (effectiveAddress ind y s) (memoryBuffer ind y s) (s.fetched.latched ind y)).addCycles
        (cost s.params.cyc + indirectCost ind)) := rfl

/-- The whole step of an instruction without an address: done with its cost and drawn latches, held, or its
fault recorded. -/
theorem registerStep_cases {cost : CycTable → Nat} {effect : State → Effect} {s t : State}
    (h : registerStep cost effect s = .next t) :
    (∃ u, effect s.fetched = .done u ∧ t = (u.addCycles (cost s.params.cyc)).drawLatches) ∨
      (effect s.fetched = .hold ∧ t = s) ∨
      ∃ c w, effect s.fetched = .trap c w ∧ t = takeFault c w s.pc s.fetched := by
  unfold registerStep registerEffect at h
  cases he : effect s.fetched with
  | done u => exact .inl ⟨u, rfl, by simpa [he] using h.symm⟩
  | hold => exact .inr (.inl ⟨rfl, by simpa [he] using h.symm⟩)
  | trap c w => exact .inr (.inr ⟨c, w, rfl, by simpa [he] using h.symm⟩)

theorem registerStep_done {cost : CycTable → Nat} {effect : State → Effect} {s u : State}
    (h : effect s.fetched = .done u) :
    registerStep cost effect s = .next (u.addCycles (cost s.params.cyc)).drawLatches := by
  simp [registerStep, registerEffect, h]

theorem registerStep_hold {cost : CycTable → Nat} {effect : State → Effect} {s : State}
    (h : effect s.fetched = .hold) : registerStep cost effect s = .next s := by
  simp [registerStep, registerEffect, h]

theorem registerStep_trap {cost : CycTable → Nat} {effect : State → Effect} {s : State} {c : FaultCause}
    {w : Word} (h : effect s.fetched = .trap c w) :
    registerStep cost effect s = .next (takeFault c w s.pc s.fetched) := by
  simp [registerStep, registerEffect, h]

/-! ### The mailbox write -/

@[simp] theorem State.mailbox_tty (s : State) : s.mailbox .tty = s.mbxTty := rfl

@[simp] theorem State.mailbox_dsp (s : State) : s.mailbox .dsp = s.mbxDsp := rfl

/-- A mailbox write never faults: an empty slot receives the word, a full one holds the step under Block and is
replaced and counted under Overwrite. -/
theorem mailboxWrite_cases (m : Mailbox) (v : Word) (s : State) :
    (s.mailbox m = 0 ∧ mailboxWrite m v s = .done (s.withMailbox m v)) ∨
      (s.mailbox m ≠ 0 ∧ s.params.mailboxPolicy = .block ∧ mailboxWrite m v s = .hold) ∨
      (s.mailbox m ≠ 0 ∧ s.params.mailboxPolicy = .overwrite ∧
        mailboxWrite m v s = .done { s.withMailbox m v with overwrites := s.overwrites + 1 }) := by
  unfold mailboxWrite
  by_cases hm : s.mailbox m = 0
  · exact .inl ⟨hm, by cases s.params.mailboxPolicy <;> simp only [if_pos hm]⟩
  · cases s.params.mailboxPolicy
    · exact .inr (.inl ⟨hm, rfl, by simp only [if_neg hm]⟩)
    · exact .inr (.inr ⟨hm, rfl, by simp only [if_neg hm]⟩)

/-! ### The operate word -/

theorem operateEffect_legal {bits : BitVec 13} (s : State) (h : operateLegal bits = true) :
    operateEffect bits s = .done (operate bits s) := by
  simp [operateEffect, h]

theorem operateEffect_illegal {bits : BitVec 13} (s : State) (h : operateLegal bits = false) :
    operateEffect bits s = .trap .badOperate (operateWord bits) := by
  simp [operateEffect, h]

/-- Every named operate word is legal (R151, R165). -/
theorem namedOperates_legal : ∀ bits ∈ namedOperates, operateLegal bits = true :=
  List.all_eq_true.mp rfl

/-! ### Turns -/

/-- Once all is done there is no step. -/
theorem step_allDone {s : State} (h : allDone s = true) : step s = .fault .runEnded := by simp [step, h]

theorem step_turn {s : State} (h : allDone s = false) :
    step s = takeTurn (nextTurn s).turn (nextTurn s).state := by simp [step, h]

/-- A fixed turn is taken, whether the run has ended or not (R112, R194). -/
theorem step_scheduled {s : State} {t : Turn} {rest : List Turn} (h : s.schedule = t :: rest) :
    step s = takeTurn t { s with schedule := rest } := by
  simp [step, allDone, nextTurn, h]

theorem nextTurn_scheduled {s : State} {t : Turn} {rest : List Turn} (h : s.schedule = t :: rest) :
    nextTurn s = { turn := t, state := { s with schedule := rest } } := by simp [nextTurn, h]

theorem nextTurn_free {s : State} (h : s.schedule = []) : nextTurn s = freeTurn s := by simp [nextTurn, h]

/-- Whose free turn it is, case by case (R61, R193, R275, R276). -/
theorem freeTurn_cases (s : State) :
    (consumerReady s = true ∧ cpuEnabled s = true ∧ waitLeft s = 0 ∧
        freeTurn s = { turn := .consumer, state := s.afterWait }) ∨
      (consumerReady s = true ∧ cpuEnabled s = true ∧ waitLeft s ≠ 0 ∧
        freeTurn s = { turn := .cpu, state := s.afterWait }) ∨
      (consumerReady s = true ∧ cpuEnabled s = false ∧ freeTurn s = { turn := .consumer, state := s.withoutWait }) ∨
      (consumerReady s = false ∧ cpuRunning s = true ∧ freeTurn s = { turn := .cpu, state := s.withoutWait }) ∨
      (consumerReady s = false ∧ cpuRunning s = false ∧
        freeTurn s = { turn := .hostStopPeripheral, state := s.withoutWait }) := by
  unfold freeTurn
  cases consumerReady s <;> cases cpuEnabled s <;> cases cpuRunning s <;> by_cases hw : waitLeft s = 0 <;>
    simp [hw]

/-- Choosing a turn changes only the model's own schedule, counter and wait. -/
theorem nextTurn_state (s : State) :
    ∃ sched n w, (nextTurn s).state = { s with schedule := sched, draws := n, wait := w } := by
  unfold nextTurn
  split
  · exact ⟨_, _, _, rfl⟩
  · rcases freeTurn_cases s with ⟨-, -, -, h⟩ | ⟨-, -, -, h⟩ | ⟨-, -, h⟩ | ⟨-, -, h⟩ | ⟨-, -, h⟩ <;> rw [h] <;>
      exact ⟨s.schedule, _, _, rfl⟩

end Sys2Proof.Machine
end

