-- ==== Sys2Proof/Laws/Cpu.lean ====
section
/-! SUPPORT. What no instruction changes, whatever it is and however deep under XCT: the parameters, the
schedule, the decoders' state, the trace, FAULT and PRUN (until a fault is recorded), and the memory's
canonical form (spec/10_state.md R39, spec/43_iot_mailbox.md R190, spec/60_exceptions.md R253). -/

namespace Sys2Proof.Machine

/-- What an instruction's own effect leaves as it was, or only moves one way. -/
structure CpuKeeps (s t : State) : Prop where
  params : t.params = s.params
  schedule : t.schedule = s.schedule
  wait : t.wait = s.wait
  mode : t.mode = s.mode
  curX : t.curX = s.curX
  curY : t.curY = s.curY
  tcurX : t.tcurX = s.tcurX
  tcurY : t.tcurY = s.tcurY
  trace : t.trace = s.trace
  fault : t.fault = s.fault
  prun : t.prun = s.prun
  ir : t.ir = s.ir
  run : t.run = true → s.run = true
  cycles : s.cycles ≤ t.cycles
  mem : Memory.wf s.mem → Memory.wf t.mem

theorem CpuKeeps.refl (s : State) : CpuKeeps s s :=
  ⟨rfl, rfl, rfl, rfl, rfl, rfl, rfl, rfl, rfl, rfl, rfl, rfl, id, le_rfl, id⟩

theorem CpuKeeps.trans {s t u : State} (h : CpuKeeps s t) (k : CpuKeeps t u) : CpuKeeps s u where
  params := k.params.trans h.params
  schedule := k.schedule.trans h.schedule
  wait := k.wait.trans h.wait
  mode := k.mode.trans h.mode
  curX := k.curX.trans h.curX
  curY := k.curY.trans h.curY
  tcurX := k.tcurX.trans h.tcurX
  tcurY := k.tcurY.trans h.tcurY
  trace := k.trace.trans h.trace
  fault := k.fault.trans h.fault
  prun := k.prun.trans h.prun
  ir := k.ir.trans h.ir
  run := fun x => h.run (k.run x)
  cycles := le_trans h.cycles k.cycles
  mem := fun x => k.mem (h.mem x)

theorem CpuKeeps.addCycles (s : State) (n : Nat) : CpuKeeps s (s.addCycles n) :=
  ⟨rfl, rfl, rfl, rfl, rfl, rfl, rfl, rfl, rfl, rfl, rfl, rfl, id, Nat.le_add_right _ _, id⟩

theorem CpuKeeps.drawLatches (s : State) : CpuKeeps s s.drawLatches :=
  ⟨rfl, rfl, rfl, rfl, rfl, rfl, rfl, rfl, rfl, rfl, rfl, rfl, id, le_rfl, id⟩

theorem CpuKeeps.latched (s : State) (ind : Bool) (y : Addr) : CpuKeeps s (s.latched ind y) :=
  ⟨rfl, rfl, rfl, rfl, rfl, rfl, rfl, rfl, rfl, rfl, rfl, rfl, id, le_rfl, id⟩

theorem CpuKeeps.skipWhen (s : State) (c : Bool) : CpuKeeps s (s.skipWhen c) := by
  cases c <;> exact ⟨rfl, rfl, rfl, rfl, rfl, rfl, rfl, rfl, rfl, rfl, rfl, rfl, id, le_rfl, id⟩

theorem CpuKeeps.writeWord (s : State) (a : Addr) (v : Word) : CpuKeeps s (s.writeWord a v) :=
  ⟨rfl, rfl, rfl, rfl, rfl, rfl, rfl, rfl, rfl, rfl, rfl, rfl, id, le_rfl, s.writeWord_wf a v⟩

/-! ### The memory-reference acts -/

theorem calAct_keeps (ea : Addr) (mb : Word) (s : State) : CpuKeeps s (calAct ea mb s) :=
  ⟨rfl, rfl, rfl, rfl, rfl, rfl, rfl, rfl, rfl, rfl, rfl, rfl, id, le_rfl, s.writeWord_wf ea _⟩

theorem dacAct_keeps (ea : Addr) (mb : Word) (s : State) : CpuKeeps s (dacAct ea mb s) :=
  ⟨rfl, rfl, rfl, rfl, rfl, rfl, rfl, rfl, rfl, rfl, rfl, rfl, id, le_rfl, s.writeWord_wf ea _⟩

theorem jmsAct_keeps (ea : Addr) (mb : Word) (s : State) : CpuKeeps s (jmsAct ea mb s) :=
  ⟨rfl, rfl, rfl, rfl, rfl, rfl, rfl, rfl, rfl, rfl, rfl, rfl, id, le_rfl, s.writeWord_wf ea _⟩

theorem dzmAct_keeps (ea : Addr) (mb : Word) (s : State) : CpuKeeps s (dzmAct ea mb s) :=
  ⟨rfl, rfl, rfl, rfl, rfl, rfl, rfl, rfl, rfl, rfl, rfl, rfl, id, le_rfl, s.writeWord_wf ea _⟩

theorem lacAct_keeps (ea : Addr) (mb : Word) (s : State) : CpuKeeps s (lacAct ea mb s) :=
  ⟨rfl, rfl, rfl, rfl, rfl, rfl, rfl, rfl, rfl, rfl, rfl, rfl, id, le_rfl, id⟩

theorem xorAct_keeps (ea : Addr) (mb : Word) (s : State) : CpuKeeps s (xorAct ea mb s) :=
  ⟨rfl, rfl, rfl, rfl, rfl, rfl, rfl, rfl, rfl, rfl, rfl, rfl, id, le_rfl, id⟩

theorem andAct_keeps (ea : Addr) (mb : Word) (s : State) : CpuKeeps s (andAct ea mb s) :=
  ⟨rfl, rfl, rfl, rfl, rfl, rfl, rfl, rfl, rfl, rfl, rfl, rfl, id, le_rfl, id⟩

theorem addAct_keeps (ea : Addr) (mb : Word) (s : State) : CpuKeeps s (addAct ea mb s) :=
  ⟨rfl, rfl, rfl, rfl, rfl, rfl, rfl, rfl, rfl, rfl, rfl, rfl, id, le_rfl, id⟩

theorem tadAct_keeps (ea : Addr) (mb : Word) (s : State) : CpuKeeps s (tadAct ea mb s) :=
  ⟨rfl, rfl, rfl, rfl, rfl, rfl, rfl, rfl, rfl, rfl, rfl, rfl, id, le_rfl, id⟩

theorem iszAct_keeps (ea : Addr) (mb : Word) (s : State) : CpuKeeps s (iszAct ea mb s) :=
  (CpuKeeps.writeWord s ea _).trans (CpuKeeps.skipWhen _ _)

theorem sadAct_keeps (ea : Addr) (mb : Word) (s : State) : CpuKeeps s (sadAct ea mb s) :=
  CpuKeeps.skipWhen _ _

theorem jmpAct_keeps (ea : Addr) (mb : Word) (s : State) : CpuKeeps s (jmpAct ea mb s) :=
  ⟨rfl, rfl, rfl, rfl, rfl, rfl, rfl, rfl, rfl, rfl, rfl, rfl, id, le_rfl, id⟩

/-- A memory-reference effect keeps what its act keeps. -/
theorem memrefEffect_keeps {cost : CycTable → Nat} {act : Addr → Word → State → State} {ind : Bool} {y : Addr}
    {s t : State} (hact : ∀ ea mb u, CpuKeeps u (act ea mb u)) (h : memrefEffect cost act ind y s = .done t) :
    CpuKeeps s t := by
  rw [memrefEffect_eq] at h
  cases h
  exact (hact _ _ _).trans (CpuKeeps.addCycles _ _)

/-! ### The other effects -/

/-- An effect that keeps what no instruction changes whenever it is done. -/
def KeepsWhenDone (effect : State → Effect) : Prop := ∀ s t, effect s = .done t → CpuKeeps s t

theorem registerEffect_keeps {cost : CycTable → Nat} {effect : State → Effect} (he : KeepsWhenDone effect) :
    KeepsWhenDone (registerEffect cost effect) := by
  intro s t h
  obtain ⟨u, hu, rfl⟩ := Effect.charge_eq_done.mp h
  exact (he s u hu).trans (CpuKeeps.addCycles _ _)

theorem krbEffect_keeps : KeepsWhenDone krbEffect := by
  intro s t h
  cases h
  exact ⟨rfl, rfl, rfl, rfl, rfl, rfl, rfl, rfl, rfl, rfl, rfl, rfl, id, le_rfl, id⟩

theorem withMailbox_keeps (s : State) (m : Mailbox) (v : Word) : CpuKeeps s (s.withMailbox m v) := by
  cases m <;> exact ⟨rfl, rfl, rfl, rfl, rfl, rfl, rfl, rfl, rfl, rfl, rfl, rfl, id, le_rfl, id⟩

theorem mailboxWrite_keeps (m : Mailbox) (f : State → Word) :
    KeepsWhenDone fun s => mailboxWrite m (f s) s := by
  intro s t h
  rcases mailboxWrite_cases m (f s) s with ⟨-, he⟩ | ⟨-, -, he⟩ | ⟨-, -, he⟩ <;> simp only [he] at h <;> cases h
  · exact withMailbox_keeps s m _
  · exact (withMailbox_keeps s m _).trans
      ⟨rfl, rfl, rfl, rfl, rfl, rfl, rfl, rfl, rfl, rfl, rfl, rfl, id, le_rfl, id⟩

theorem tlsEffect_keeps : KeepsWhenDone tlsEffect := mailboxWrite_keeps .tty fun s => tlsWord s.ac

theorem dspEffect_keeps : KeepsWhenDone dspEffect := mailboxWrite_keeps .dsp fun s => s.ac

theorem opcode13Effect_keeps (rest : BitVec 14) : KeepsWhenDone (opcode13Effect rest) := by
  intro s t h
  cases h

theorem otherIotEffect_keeps (rest : BitVec 14) : KeepsWhenDone (otherIotEffect rest) := by
  intro s t h
  cases h

theorem operate_keeps (bits : BitVec 13) (s : State) : CpuKeeps s (operate bits s) := by
  refine CpuKeeps.trans ?_ (CpuKeeps.skipWhen _ _)
  refine ⟨rfl, rfl, rfl, rfl, rfl, rfl, rfl, rfl, rfl, rfl, rfl, rfl, ?_, le_rfl, id⟩
  intro h
  by_cases hb : bits.getLsbD 5 = true <;> simp_all

theorem operateEffect_keeps (bits : BitVec 13) : KeepsWhenDone (operateEffect bits) := by
  intro s t h
  unfold operateEffect at h
  split_ifs at h
  cases h
  exact operate_keeps bits s

theorem lawEffect_keeps (k : BitVec 13) : KeepsWhenDone (lawEffect k) := by
  intro s t h
  unfold lawEffect at h
  split_ifs at h
  cases h
  exact ⟨rfl, rfl, rfl, rfl, rfl, rfl, rfl, rfl, rfl, rfl, rfl, rfl, id, le_rfl, id⟩

/-! ### Nested execution -/

/-- A nested word, to any depth, keeps what no instruction changes (R110). -/
theorem execWord_keeps (fuel : Nat) (w : Word) : KeepsWhenDone (execWord fuel w) := by
  induction fuel generalizing w with
  | zero =>
    intro s t h
    cases h
  | succ fuel ih =>
    intro s t h
    unfold execWord at h
    cases hd : decode s.params w <;> simp only [hd] at h
    case xct ind y =>
      obtain ⟨u, hu, rfl⟩ := Effect.charge_eq_done.mp h
      exact (ih _ s u hu).trans (CpuKeeps.addCycles _ _)
    case cal => exact memrefEffect_keeps calAct_keeps h
    case dac => exact memrefEffect_keeps dacAct_keeps h
    case jms => exact memrefEffect_keeps jmsAct_keeps h
    case dzm => exact memrefEffect_keeps dzmAct_keeps h
    case lac => exact memrefEffect_keeps lacAct_keeps h
    case xor => exact memrefEffect_keeps xorAct_keeps h
    case add => exact memrefEffect_keeps addAct_keeps h
    case tad => exact memrefEffect_keeps tadAct_keeps h
    case isz => exact memrefEffect_keeps iszAct_keeps h
    case and => exact memrefEffect_keeps andAct_keeps h
    case sad => exact memrefEffect_keeps sadAct_keeps h
    case jmp => exact memrefEffect_keeps jmpAct_keeps h
    case krb => exact registerEffect_keeps krbEffect_keeps _ _ h
    case tls => exact registerEffect_keeps tlsEffect_keeps _ _ h
    case dsp => exact registerEffect_keeps dspEffect_keeps _ _ h
    case opcode13 rest => exact registerEffect_keeps (opcode13Effect_keeps rest) _ _ h
    case otherIot rest => exact registerEffect_keeps (otherIotEffect_keeps rest) _ _ h
    case law k => exact registerEffect_keeps (lawEffect_keeps k) _ _ h
    all_goals exact registerEffect_keeps (operateEffect_keeps _) _ _ h

end Sys2Proof.Machine
end

