-- ==== Sys2Proof/Laws/PerInstr.lean ====
section
/-! SUPPORT. The fields of the encoded words, and for each instruction the operation number its word carries
(spec/30_encoding.md R81, R83). -/

namespace Sys2Proof

/-! ### The fields of each word shape -/

@[simp] theorem opField_memrefWord (op : BitVec 4) (ind : Bool) (y : Addr) :
    opField (memrefWord op ind y) = op := by
  apply BitVec.eq_of_getLsbD_eq
  intro k hk
  simp only [opField, memrefWord, BitVec.getLsbD_extractLsb', BitVec.getLsbD_append]
  simp [hk, show ¬ (14 + k < 13) by omega, show ¬ (14 + k - 13 < 1) by omega, show 14 + k - 13 - 1 = k by omega]

@[simp] theorem indirectField_memrefWord (op : BitVec 4) (ind : Bool) (y : Addr) :
    indirectField (memrefWord op ind y) = ind := by
  simp only [indirectField, memrefWord, BitVec.getLsbD_append]
  simp

@[simp] theorem addressField_memrefWord (op : BitVec 4) (ind : Bool) (y : Addr) :
    addressField (memrefWord op ind y) = y := by
  apply BitVec.eq_of_getLsbD_eq
  intro k hk
  simp only [addressField, memrefWord, BitVec.getLsbD_extractLsb', BitVec.getLsbD_append]
  simp [hk]

@[simp] theorem opField_opcode13Word (r : BitVec 14) : opField (opcode13Word r) = 13 := by
  apply BitVec.eq_of_getLsbD_eq
  intro k hk
  simp only [opField, opcode13Word, BitVec.getLsbD_extractLsb', BitVec.getLsbD_append]
  simp [hk]

@[simp] theorem restField_opcode13Word (r : BitVec 14) : restField (opcode13Word r) = r := by
  apply BitVec.eq_of_getLsbD_eq
  intro k hk
  simp only [restField, opcode13Word, BitVec.getLsbD_extractLsb', BitVec.getLsbD_append]
  simp [hk]

@[simp] theorem opField_otherIotWord (r : BitVec 14) : opField (otherIotWord r) = 14 := by
  apply BitVec.eq_of_getLsbD_eq
  intro k hk
  simp only [opField, otherIotWord, BitVec.getLsbD_extractLsb', BitVec.getLsbD_append]
  simp [hk]

@[simp] theorem restField_otherIotWord (r : BitVec 14) : restField (otherIotWord r) = r := by
  apply BitVec.eq_of_getLsbD_eq
  intro k hk
  simp only [restField, otherIotWord, BitVec.getLsbD_extractLsb', BitVec.getLsbD_append]
  simp [hk]

@[simp] theorem opField_operateWord (b : BitVec 13) : opField (operateWord b) = 15 := by
  apply BitVec.eq_of_getLsbD_eq
  intro k hk
  simp only [opField, operateWord, BitVec.getLsbD_extractLsb', BitVec.getLsbD_append]
  interval_cases k <;> rfl

@[simp] theorem indirectField_operateWord (b : BitVec 13) : indirectField (operateWord b) = false := by
  simp only [indirectField, operateWord, BitVec.getLsbD_append]
  simp

@[simp] theorem addressField_operateWord (b : BitVec 13) : addressField (operateWord b) = b := by
  apply BitVec.eq_of_getLsbD_eq
  intro k hk
  simp only [addressField, operateWord, BitVec.getLsbD_extractLsb', BitVec.getLsbD_append]
  simp [hk]

@[simp] theorem opField_lawWord (b : BitVec 13) : opField (lawWord b) = 15 := by
  apply BitVec.eq_of_getLsbD_eq
  intro k hk
  simp only [opField, lawWord, BitVec.getLsbD_extractLsb', BitVec.getLsbD_append]
  interval_cases k <;> rfl

@[simp] theorem indirectField_lawWord (b : BitVec 13) : indirectField (lawWord b) = true := by
  simp only [indirectField, lawWord, BitVec.getLsbD_append]
  simp

@[simp] theorem addressField_lawWord (b : BitVec 13) : addressField (lawWord b) = b := by
  apply BitVec.eq_of_getLsbD_eq
  intro k hk
  simp only [addressField, lawWord, BitVec.getLsbD_extractLsb', BitVec.getLsbD_append]
  simp [hk]

/-! ### What R7 asks of the IOT words, one condition at a time -/

theorem Params.wf_iff (p : Params) : p.wf = true ↔
    opField p.iotKrb = 14 ∧ opField p.iotTls = 14 ∧ opField p.iotDsp = 14 ∧
      p.iotKrb ≠ p.iotTls ∧ p.iotKrb ≠ p.iotDsp ∧ p.iotTls ≠ p.iotDsp ∧
      3 ≤ p.xctMaxDepth ∧ 1 ≤ p.cols ∧ 1 ≤ p.rows ∧
      [p.chNul, p.chCr, p.chLf, p.chHsh, p.chVsh, p.chEsc].Nodup := by
  simp [Params.wf, isIotWord, opField, and_assoc]

/-! ### The operation number of each instruction's word -/

/-- The operation number R83 gives an instruction. -/
def opNumber : Instr → BitVec 4
  | .cal _ _ => 0
  | .dac _ _ => 1
  | .jms _ _ => 2
  | .dzm _ _ => 3
  | .lac _ _ => 4
  | .xor _ _ => 5
  | .add _ _ => 6
  | .tad _ _ => 7
  | .xct _ _ => 8
  | .isz _ _ => 9
  | .and _ _ => 10
  | .sad _ _ => 11
  | .jmp _ _ => 12
  | .opcode13 _ => 13
  | .krb | .tls | .dsp | .otherIot _ => 14
  | .opr _ | .law _ => 15
  | .nop | .cma | .cml | .oas | .ral | .rar | .hlt | .sma | .sza | .snl | .skp | .spa
  | .sna | .szl | .rtl | .rtr | .cll | .stl | .rcl | .rcr | .cla | .clc | .las | .glk => 15

/-- Under parameters of R7's kind an instruction's word carries its operation number in bits 17..14. -/
def Laws.OpField.Statement (i : Instr) : Prop :=
  ∀ p : Params, p.wf = true → opField (encode p i) = opNumber i

theorem Laws.OpField.cal (ind : Bool) (y : Addr) : Laws.OpField.Statement (.cal ind y) :=
  fun _ _ => opField_memrefWord _ ind y

theorem Laws.OpField.dac (ind : Bool) (y : Addr) : Laws.OpField.Statement (.dac ind y) :=
  fun _ _ => opField_memrefWord _ ind y

theorem Laws.OpField.jms (ind : Bool) (y : Addr) : Laws.OpField.Statement (.jms ind y) :=
  fun _ _ => opField_memrefWord _ ind y

theorem Laws.OpField.dzm (ind : Bool) (y : Addr) : Laws.OpField.Statement (.dzm ind y) :=
  fun _ _ => opField_memrefWord _ ind y

theorem Laws.OpField.lac (ind : Bool) (y : Addr) : Laws.OpField.Statement (.lac ind y) :=
  fun _ _ => opField_memrefWord _ ind y

theorem Laws.OpField.xor (ind : Bool) (y : Addr) : Laws.OpField.Statement (.xor ind y) :=
  fun _ _ => opField_memrefWord _ ind y

theorem Laws.OpField.add (ind : Bool) (y : Addr) : Laws.OpField.Statement (.add ind y) :=
  fun _ _ => opField_memrefWord _ ind y

theorem Laws.OpField.tad (ind : Bool) (y : Addr) : Laws.OpField.Statement (.tad ind y) :=
  fun _ _ => opField_memrefWord _ ind y

theorem Laws.OpField.xct (ind : Bool) (y : Addr) : Laws.OpField.Statement (.xct ind y) :=
  fun _ _ => opField_memrefWord _ ind y

theorem Laws.OpField.isz (ind : Bool) (y : Addr) : Laws.OpField.Statement (.isz ind y) :=
  fun _ _ => opField_memrefWord _ ind y

theorem Laws.OpField.and (ind : Bool) (y : Addr) : Laws.OpField.Statement (.and ind y) :=
  fun _ _ => opField_memrefWord _ ind y

theorem Laws.OpField.sad (ind : Bool) (y : Addr) : Laws.OpField.Statement (.sad ind y) :=
  fun _ _ => opField_memrefWord _ ind y

theorem Laws.OpField.jmp (ind : Bool) (y : Addr) : Laws.OpField.Statement (.jmp ind y) :=
  fun _ _ => opField_memrefWord _ ind y

theorem Laws.OpField.opcode13 (rest : BitVec 14) : Laws.OpField.Statement (.opcode13 rest) :=
  fun _ _ => opField_opcode13Word rest

theorem Laws.OpField.krb : Laws.OpField.Statement .krb := fun p h => ((Params.wf_iff p).mp h).1

theorem Laws.OpField.tls : Laws.OpField.Statement .tls := fun p h => ((Params.wf_iff p).mp h).2.1

theorem Laws.OpField.dsp : Laws.OpField.Statement .dsp := fun p h => ((Params.wf_iff p).mp h).2.2.1

theorem Laws.OpField.otherIot (rest : BitVec 14) : Laws.OpField.Statement (.otherIot rest) :=
  fun _ _ => opField_otherIotWord rest

theorem Laws.OpField.opr (bits : BitVec 13) : Laws.OpField.Statement (.opr bits) :=
  fun _ _ => opField_operateWord bits

theorem Laws.OpField.law (k : BitVec 13) : Laws.OpField.Statement (.law k) := fun _ _ => opField_lawWord k

theorem Laws.OpField.nop : Laws.OpField.Statement .nop := fun _ _ => opField_operateWord _

theorem Laws.OpField.cma : Laws.OpField.Statement .cma := fun _ _ => opField_operateWord _

theorem Laws.OpField.cml : Laws.OpField.Statement .cml := fun _ _ => opField_operateWord _

theorem Laws.OpField.oas : Laws.OpField.Statement .oas := fun _ _ => opField_operateWord _

theorem Laws.OpField.ral : Laws.OpField.Statement .ral := fun _ _ => opField_operateWord _

theorem Laws.OpField.rar : Laws.OpField.Statement .rar := fun _ _ => opField_operateWord _

theorem Laws.OpField.hlt : Laws.OpField.Statement .hlt := fun _ _ => opField_operateWord _

theorem Laws.OpField.sma : Laws.OpField.Statement .sma := fun _ _ => opField_operateWord _

theorem Laws.OpField.sza : Laws.OpField.Statement .sza := fun _ _ => opField_operateWord _

theorem Laws.OpField.snl : Laws.OpField.Statement .snl := fun _ _ => opField_operateWord _

theorem Laws.OpField.skp : Laws.OpField.Statement .skp := fun _ _ => opField_operateWord _

theorem Laws.OpField.spa : Laws.OpField.Statement .spa := fun _ _ => opField_operateWord _

theorem Laws.OpField.sna : Laws.OpField.Statement .sna := fun _ _ => opField_operateWord _

theorem Laws.OpField.szl : Laws.OpField.Statement .szl := fun _ _ => opField_operateWord _

theorem Laws.OpField.rtl : Laws.OpField.Statement .rtl := fun _ _ => opField_operateWord _

theorem Laws.OpField.rtr : Laws.OpField.Statement .rtr := fun _ _ => opField_operateWord _

theorem Laws.OpField.cll : Laws.OpField.Statement .cll := fun _ _ => opField_operateWord _

theorem Laws.OpField.stl : Laws.OpField.Statement .stl := fun _ _ => opField_operateWord _

theorem Laws.OpField.rcl : Laws.OpField.Statement .rcl := fun _ _ => opField_operateWord _

theorem Laws.OpField.rcr : Laws.OpField.Statement .rcr := fun _ _ => opField_operateWord _

theorem Laws.OpField.cla : Laws.OpField.Statement .cla := fun _ _ => opField_operateWord _

theorem Laws.OpField.clc : Laws.OpField.Statement .clc := fun _ _ => opField_operateWord _

theorem Laws.OpField.las : Laws.OpField.Statement .las := fun _ _ => opField_operateWord _

theorem Laws.OpField.glk : Laws.OpField.Statement .glk := fun _ _ => opField_operateWord _

end Sys2Proof
end

