-- ==== Sys2Proof/Laws/Decode.lean ====
section
/-! SUPPORT. The fields of a word put together again, and what the decoder of an operate word and the encoder
do to each other (spec/30_encoding.md R81, R86, R88). -/

namespace Sys2Proof

/-- A word is its three fields (R81). -/
theorem memrefWord_fields (w : Word) : memrefWord (opField w) (indirectField w) (addressField w) = w := by
  apply BitVec.eq_of_getLsbD_eq
  intro k hk
  simp only [memrefWord, opField, indirectField, addressField, BitVec.getLsbD_append, BitVec.getLsbD_extractLsb']
  interval_cases k <;> simp

/-- A word is its `OP` and the rest of it (R81). -/
theorem opField_append_restField (w : Word) : opField w ++ restField w = w := by
  apply BitVec.eq_of_getLsbD_eq
  intro k hk
  simp only [opField, restField, BitVec.getLsbD_append, BitVec.getLsbD_extractLsb']
  interval_cases k <;> simp

/-- An operate word has `OP` = 15 and bit 13 clear (R86). -/
theorem operateWord_eq (bits : BitVec 13) : operateWord bits = memrefWord 15 false bits := by
  apply BitVec.eq_of_getLsbD_eq
  intro k hk
  simp only [operateWord, memrefWord, BitVec.getLsbD_append]
  interval_cases k <;> simp

/-- A LAW word has `OP` = 15 and bit 13 set (R164). -/
theorem lawWord_eq (k : BitVec 13) : lawWord k = memrefWord 15 true k := by
  apply BitVec.eq_of_getLsbD_eq
  intro j hj
  simp only [lawWord, memrefWord, BitVec.getLsbD_append]
  interval_cases j <;> simp

/-- What holds of both branches holds of the choice. -/
theorem ite_induction {c : Prop} [Decidable c] (P : Instr → Prop) {a b : Instr} (h1 : c → P a)
    (h2 : ¬c → P b) : P (if c then a else b) := by
  split <;> simp_all

/-- The decoder of an operate word keeps its bits. -/
theorem encode_decodeOperate (p : Params) (bits : BitVec 13) : encode p (decodeOperate bits) = operateWord bits := by
  unfold decodeOperate
  iterate 24 refine ite_induction (fun i => encode p i = operateWord bits) (fun h => h ▸ rfl) (fun _ => ?_)
  rfl

/-- The decoder of an operate word answers a named word by its name. -/
theorem decodeOperate_wellFormed (p : Params) (bits : BitVec 13) : (decodeOperate bits).wellFormed p = true := by
  unfold decodeOperate
  iterate 24 refine ite_induction (fun i => i.wellFormed p = true) (fun h => rfl) (fun _ => ?_)
  simp only [Instr.wellFormed, namedOperates, List.contains_cons, List.contains_nil, Bool.or_false]
  simp_all only [beq_eq_false_iff_ne, ne_eq, not_false_eq_true,
    Bool.not_eq_true', Bool.or_eq_false_iff, and_self]

end Sys2Proof
end

