-- ==== Sys2Proof/Laws/Turn.lean ====
section
/-! SUPPORT. What a turn comes to: the consumer's take (spec/43_iot_mailbox.md R190, R191), the inversion of a step
into its turn (spec/70_reset_and_hazards.md R275, R276), and a chain of XCTs that passes the depth limit
(spec/60_exceptions.md R256). -/

namespace Sys2Proof.Machine

/-- A take changes only the mailboxes, the decoders' state and the trace. -/
theorem consumerTake_eq (s : State) : ∃ tty dsp m x y tx ty calls, consumerTake s =
    { s with mbxTty := tty, mbxDsp := dsp, mode := m, curX := x, curY := y, tcurX := tx, tcurY := ty, trace := calls } := by
  unfold consumerTake
  split
  · exact ⟨_, _, _, _, _, _, _, _, rfl⟩
  · unfold decodeDisplay
    dsimp only
    split <;> exact ⟨_, _, _, _, _, _, _, _, rfl⟩
  · exact ⟨_, _, _, _, _, _, _, _, rfl⟩

/-- After a take the consumer has nothing more to take. -/
theorem consumerReady_consumerTake (s : State) : consumerReady (consumerTake s) = false := by
  unfold consumerTake consumerReady
  cases hp : s.params.peripheral
  · simp [hp]
  · simp only
    unfold decodeDisplay
    dsimp only
    split <;> simp [hp]
  · simp [decodeTeleprinter, hp]

/-- The consumer's turn is a take or changes nothing. -/
theorem consumerTurn_cases (s : State) :
    (consumerReady s = true ∧ consumerTurn s = consumerTake s) ∨ (consumerReady s = false ∧ consumerTurn s = s) := by
  unfold consumerTurn
  cases consumerReady s <;> simp

/-- What each turn can leave. -/
theorem takeTurn_cases {turn : Turn} {s t : State} (h : takeTurn turn s = .next t) :
    (turn = .cpu ∧ cpuRunning s = true ∧ cpuStep s = .next t) ∨ (turn = .cpu ∧ cpuRunning s = false ∧ t = s) ∨
      (turn = .consumer ∧ t = consumerTurn s) ∨ (turn = .hostStopCpu ∧ t = hostStopCpu s) ∨
      (turn = .hostStopPeripheral ∧ t = hostStopPeripheral s) := by
  cases turn <;> simp only [takeTurn] at h
  case cpu =>
    cases hc : cpuRunning s <;> simp only [hc, if_true, Bool.false_eq_true, if_false] at h
    · exact .inr (.inl ⟨rfl, rfl, (Host.Outcome.next.inj h).symm⟩)
    · exact .inl ⟨rfl, rfl, h⟩
  all_goals simp [(Host.Outcome.next.inj h).symm]

/-- A step with a next state is the next turn's. -/
theorem step_next {s t : State} (h : step s = .next t) :
    allDone s = false ∧ takeTurn (nextTurn s).turn (nextTurn s).state = .next t := by
  cases ha : allDone s
  · exact ⟨rfl, (step_turn ha).symm.trans h⟩
  · rw [step_allDone ha] at h
    cases h

/-- A chain of XCTs past the limit faults with the word one past it, from whatever depth. -/
theorem execWord_chain_too_long {n : Nat} {w : Word} {s : State} (h : chainEnd n w s = none) :
    execWord n w s = .trap .xctDepth (chainWord n w s) := by
  induction n generalizing w with
  | zero => rfl
  | succ n ih =>
    unfold chainEnd at h
    split_ifs at h with h8
    have hd : decode s.params w = .xct (indirectField w) (addressField w) := by
      unfold decode
      rw [h8]
      rfl
    rw [execWord, hd]
    dsimp only
    rw [ih h, chainWord, if_pos h8, Effect.charge_trap]

end Sys2Proof.Machine
end

