-- ==== Sys2Proof/Laws/Wait.lean ====
section
/-! SUPPORT. No turn reads the model's own wait: a turn taken with another wait is the same turn, with that wait in
the state it leaves (spec/43_iot_mailbox.md R193; log 8). With it an order of steps and the run that chooses it can
be compared state by state. -/

namespace Sys2Proof.Machine

/-- The state with another wait. -/
def State.withWait (s : State) (w : Option Nat) : State := { s with wait := w }

@[simp] theorem State.withWait_mem (s : State) (w : Option Nat) : (s.withWait w).mem = s.mem := rfl
@[simp] theorem State.withWait_ac (s : State) (w : Option Nat) : (s.withWait w).ac = s.ac := rfl
@[simp] theorem State.withWait_link (s : State) (w : Option Nat) : (s.withWait w).link = s.link := rfl
@[simp] theorem State.withWait_pc (s : State) (w : Option Nat) : (s.withWait w).pc = s.pc := rfl
@[simp] theorem State.withWait_ir (s : State) (w : Option Nat) : (s.withWait w).ir = s.ir := rfl
@[simp] theorem State.withWait_ea (s : State) (w : Option Nat) : (s.withWait w).ea = s.ea := rfl
@[simp] theorem State.withWait_mb (s : State) (w : Option Nat) : (s.withWait w).mb = s.mb := rfl
@[simp] theorem State.withWait_run (s : State) (w : Option Nat) : (s.withWait w).run = s.run := rfl
@[simp] theorem State.withWait_cycles (s : State) (w : Option Nat) : (s.withWait w).cycles = s.cycles := rfl
@[simp] theorem State.withWait_fault (s : State) (w : Option Nat) : (s.withWait w).fault = s.fault := rfl
@[simp] theorem State.withWait_mbxTty (s : State) (w : Option Nat) : (s.withWait w).mbxTty = s.mbxTty := rfl
@[simp] theorem State.withWait_mbxDsp (s : State) (w : Option Nat) : (s.withWait w).mbxDsp = s.mbxDsp := rfl
@[simp] theorem State.withWait_overwrites (s : State) (w : Option Nat) : (s.withWait w).overwrites = s.overwrites := rfl
@[simp] theorem State.withWait_prun (s : State) (w : Option Nat) : (s.withWait w).prun = s.prun := rfl
@[simp] theorem State.withWait_mode (s : State) (w : Option Nat) : (s.withWait w).mode = s.mode := rfl
@[simp] theorem State.withWait_curX (s : State) (w : Option Nat) : (s.withWait w).curX = s.curX := rfl
@[simp] theorem State.withWait_curY (s : State) (w : Option Nat) : (s.withWait w).curY = s.curY := rfl
@[simp] theorem State.withWait_tcurX (s : State) (w : Option Nat) : (s.withWait w).tcurX = s.tcurX := rfl
@[simp] theorem State.withWait_tcurY (s : State) (w : Option Nat) : (s.withWait w).tcurY = s.tcurY := rfl
@[simp] theorem State.withWait_trace (s : State) (w : Option Nat) : (s.withWait w).trace = s.trace := rfl
@[simp] theorem State.withWait_params (s : State) (w : Option Nat) : (s.withWait w).params = s.params := rfl
@[simp] theorem State.withWait_draws (s : State) (w : Option Nat) : (s.withWait w).draws = s.draws := rfl
@[simp] theorem State.withWait_wait (s : State) (w : Option Nat) : (s.withWait w).wait = w := rfl
@[simp] theorem State.withWait_schedule (s : State) (w : Option Nat) : (s.withWait w).schedule = s.schedule := rfl

/-- The effect computed with another wait is the same effect, with that wait in the state it leaves. -/
def IgnoresWait (effect : State → Effect) : Prop :=
  ∀ (s : State) (w : Option Nat), effect (s.withWait w) = (effect s).map (·.withWait w)

theorem skipWhen_wait (s : State) (c : Bool) (w : Option Nat) :
    (s.withWait w).skipWhen c = (s.skipWhen c).withWait w := by
  cases c <;> rfl

theorem Effect.charge_wait (e : Effect) (n : Nat) (w : Option Nat) :
    (e.map (·.withWait w)).charge n = (e.charge n).map (·.withWait w) := by
  cases e <;> rfl

theorem memrefEffect_ignoresWait {cost : CycTable → Nat} {act : Addr → Word → State → State} {ind : Bool} {y : Addr}
    (h : ∀ ea mb (s : State) w, act ea mb (s.withWait w) = (act ea mb s).withWait w) :
    IgnoresWait (memrefEffect cost act ind y) := by
  intro s w
  rw [memrefEffect_eq, memrefEffect_eq]
  exact congrArg (fun t : State => Effect.done (t.addCycles _)) (h _ _ s w)

theorem registerEffect_ignoresWait {cost : CycTable → Nat} {effect : State → Effect} (h : IgnoresWait effect) :
    IgnoresWait (registerEffect cost effect) := by
  intro s w
  unfold registerEffect
  rw [h s w]
  exact Effect.charge_wait _ _ _

theorem iszAct_wait (ea : Addr) (mb : Word) (s : State) (w : Option Nat) :
    iszAct ea mb (s.withWait w) = (iszAct ea mb s).withWait w :=
  skipWhen_wait (s.writeWord ea (mb + 1)) (mb + 1 == 0) w

theorem sadAct_wait (ea : Addr) (mb : Word) (s : State) (w : Option Nat) :
    sadAct ea mb (s.withWait w) = (sadAct ea mb s).withWait w :=
  skipWhen_wait s (s.ac != mb) w

theorem mailboxWrite_ignoresWait (m : Mailbox) (f : State → Word) (hf : ∀ (s : State) w, f (s.withWait w) = f s) :
    IgnoresWait fun s => mailboxWrite m (f s) s := by
  intro s w
  have hm : (s.withWait w).mailbox m = s.mailbox m := by cases m <;> rfl
  have hw : ∀ v, (s.withWait w).withMailbox m v = (s.withMailbox m v).withWait w := by
    cases m <;> exact fun _ => rfl
  simp only [hf, mailboxWrite, hm, hw, State.withWait_params]
  cases s.params.mailboxPolicy <;> dsimp only <;> split <;> rfl

theorem operate_wait (bits : BitVec 13) (s : State) (w : Option Nat) :
    operate bits (s.withWait w) = (operate bits s).withWait w := by
  simp only [operate, State.skipWhen_eq]
  rfl

theorem operateEffect_ignoresWait (bits : BitVec 13) : IgnoresWait (operateEffect bits) := by
  intro s w
  unfold operateEffect
  split
  · exact congrArg Effect.done (operate_wait bits s w)
  · rfl

theorem lawEffect_ignoresWait (k : BitVec 13) : IgnoresWait (lawEffect k) := by
  intro s w
  simp only [lawEffect, State.withWait_params]
  by_cases h : s.params.optLaw = true <;> simp only [h, if_true, if_false, Bool.false_eq_true] <;> rfl

theorem execWord_ignoresWait (fuel : Nat) (v : Word) : IgnoresWait (execWord fuel v) := by
  induction fuel generalizing v with
  | zero => exact fun _ _ => rfl
  | succ fuel ih =>
    intro s w
    unfold execWord
    simp only [State.withWait_params]
    cases decode s.params v <;> dsimp only
    case xct ind y =>
      exact (congrArg (Effect.charge _) (ih _ s w)).trans (Effect.charge_wait _ _ _)
    case isz => exact memrefEffect_ignoresWait iszAct_wait s w
    case sad => exact memrefEffect_ignoresWait sadAct_wait s w
    case tls => exact registerEffect_ignoresWait (mailboxWrite_ignoresWait .tty (fun s => tlsWord s.ac) fun _ _ => rfl) s w
    case dsp => exact registerEffect_ignoresWait (mailboxWrite_ignoresWait .dsp (fun s => s.ac) fun _ _ => rfl) s w
    case law k => exact registerEffect_ignoresWait (lawEffect_ignoresWait k) s w
    case krb | opcode13 | otherIot => exact registerEffect_ignoresWait (fun _ _ => rfl) s w
    case cal | dac | jms | dzm | lac | xor | add | tad | and | jmp =>
      exact memrefEffect_ignoresWait (fun _ _ _ _ => rfl) s w
    all_goals exact registerEffect_ignoresWait (operateEffect_ignoresWait _) s w

/-- Whether the CPU holds does not depend on the wait. -/
theorem cpuHolds_wait (s : State) (w : Option Nat) : cpuHolds (s.withWait w) = cpuHolds s := by
  have h := execWord_ignoresWait (s.params.xctMaxDepth - 1 + 1) s.fetchWord s.fetched w
  have he : cpuHolds (s.withWait w) = (execWord (s.params.xctMaxDepth - 1 + 1) s.fetchWord
      (s.fetched.withWait w) == .hold) := rfl
  rw [he, h, cpuHolds]
  cases execWord (s.params.xctMaxDepth - 1 + 1) s.fetchWord s.fetched <;> rfl

/-- A step's end with another wait. -/
theorem finishStep_wait {b p t : State} {e : Effect} (w : Option Nat) (h : finishStep b p e = .next t) :
    finishStep (b.withWait w) (p.withWait w) (e.map (·.withWait w)) = .next (t.withWait w) := by
  rcases finishStep_cases h with rfl | ⟨rfl, rfl⟩ | ⟨c, v, rfl, rfl⟩ <;> rfl

theorem memrefStep_wait {cost : CycTable → Nat} {act : Addr → Word → State → State} {ind : Bool} {y : Addr}
    {s t : State} (w : Option Nat)
    (ha : ∀ ea mb (s : State) w, act ea mb (s.withWait w) = (act ea mb s).withWait w)
    (h : memrefStep cost act ind y s = .next t) :
    memrefStep cost act ind y (s.withWait w) = .next (t.withWait w) := by
  have he := memrefEffect_ignoresWait (cost := cost) (ind := ind) (y := y) ha (s.fetched.latched ind y) w
  have := finishStep_wait w h
  rwa [← he] at this

theorem registerStep_wait {cost : CycTable → Nat} {effect : State → Effect} {s t : State} (w : Option Nat)
    (he : IgnoresWait effect) (h : registerStep cost effect s = .next t) :
    registerStep cost effect (s.withWait w) = .next (t.withWait w) := by
  have hr := registerEffect_ignoresWait (cost := cost) he s.fetched w
  have hf := finishStep_wait w h
  have hm : ∀ e : Effect, (e.map State.drawLatches).map (·.withWait w) =
      (e.map (·.withWait w)).map State.drawLatches := fun e => by cases e <;> rfl
  rwa [hm, ← hr] at hf

/-- Whatever instruction executes, its whole step with another wait is the same step with that wait. -/
theorem exec_wait {i : Instr} {s t : State} (w : Option Nat) (h : exec i s = .next t) :
    exec i (s.withWait w) = .next (t.withWait w) := by
  cases i <;> unfold exec at h ⊢ <;> dsimp only at h ⊢
  case xct ind y =>
    have he := execWord_ignoresWait (s.params.xctMaxDepth - 1) (memoryBuffer ind y (s.fetched.latched ind y))
      (s.fetched.latched ind y) w
    have hx : xctEffect ind y ((s.fetched.latched ind y).withWait w) =
        (xctEffect ind y (s.fetched.latched ind y)).map (·.withWait w) :=
      (congrArg (Effect.charge _) he).trans (Effect.charge_wait _ _ _)
    have hf := finishStep_wait w h
    rwa [← hx] at hf
  case isz => exact memrefStep_wait w iszAct_wait h
  case sad => exact memrefStep_wait w sadAct_wait h
  case tls => exact registerStep_wait w (mailboxWrite_ignoresWait .tty (fun s => tlsWord s.ac) fun _ _ => rfl) h
  case dsp => exact registerStep_wait w (mailboxWrite_ignoresWait .dsp (fun s => s.ac) fun _ _ => rfl) h
  case law k => exact registerStep_wait w (lawEffect_ignoresWait k) h
  case krb | opcode13 | otherIot => exact registerStep_wait w (fun _ _ => rfl) h
  case cal | dac | jms | dzm | lac | xor | add | tad | and | jmp =>
    exact memrefStep_wait w (fun _ _ _ _ => rfl) h
  all_goals exact registerStep_wait w (operateEffect_ignoresWait _) h

theorem decodeDisplay_wait (x : Word) (s : State) (w : Option Nat) :
    decodeDisplay x (s.withWait w) = (decodeDisplay x s).withWait w := by
  cases hm : s.mode <;> simp only [decodeDisplay, State.withWait_mode, hm] <;> rfl

theorem consumerTake_wait (s : State) (w : Option Nat) :
    consumerTake (s.withWait w) = (consumerTake s).withWait w := by
  cases hp : s.params.peripheral <;> simp only [consumerTake, State.withWait_params, hp]
  case display => exact decodeDisplay_wait s.mbxDsp { s with mbxDsp := 0 } w
  case teleprinter => rfl

theorem consumerTurn_wait (s : State) (w : Option Nat) :
    consumerTurn (s.withWait w) = (consumerTurn s).withWait w := by
  rcases consumerTurn_cases s with ⟨hr, he⟩ | ⟨hr, he⟩
  · exact ((if_pos hr).trans (consumerTake_wait s w)).trans (by rw [he])
  · exact (if_neg (Bool.eq_false_iff.mp hr)).trans (by rw [he])

theorem cpuEnabled_wait (s : State) (w : Option Nat) : cpuEnabled (s.withWait w) = cpuEnabled s :=
  congrArg (fun b => cpuRunning s && !b) (cpuHolds_wait s w)

/-- Whosever turn it is, with another wait it is the same turn with that wait. -/
theorem takeTurn_wait {turn : Turn} {s t : State} (w : Option Nat) (h : takeTurn turn s = .next t) :
    takeTurn turn (s.withWait w) = .next (t.withWait w) := by
  rcases takeTurn_cases h with ⟨rfl, hr, h⟩ | ⟨rfl, hr, rfl⟩ | ⟨rfl, rfl⟩ | ⟨rfl, rfl⟩ | ⟨rfl, rfl⟩
  · exact (if_pos hr).trans (exec_wait w h)
  · exact if_neg (Bool.eq_false_iff.mp hr)
  · exact congrArg Host.Outcome.next (consumerTurn_wait s w)
  · rfl
  · rfl

end Sys2Proof.Machine
end

