-- ==== Sys2Proof/Tests/Slice0.lean ====
section
/-! SUPPORT. Small tests: words written out from the spec's encodings and their decoding, ill-formed terms
refused, one step of the instructions on the vectors of spec/95_test_vectors.md, and for every statement with
hypotheses a witness of each of its clauses. Expected values come from the spec's vectors and tables. -/

namespace Sys2Proof.Tests

open Sys2Proof Sys2Proof.Machine

/-! ### Helpers -/

/-- A field of the next state, `none` when there is none. -/
def after {α : Type} (f : State → α) : Host.Outcome State Fault Refusal → Option α
  | .next t => some (f t)
  | .fault _ => none
  | .refused _ => none

/-- The reset state with these cells loaded, as the vectors' "start" column lists them. -/
def loaded (cells : List (Nat × Nat)) : State :=
  match loadPairs [] cells with
  | .ok m => { State.reset with mem := m }
  | .error _ => State.reset

/-- A word at the PC over loaded cells. -/
def at2000 (w : Nat) (cells : List (Nat × Nat)) : State := (loaded cells).withFetchWord 18 w

/-- One step of the word at `0o2000` over loaded cells, with `AC` and `L`. -/
def run (w : Nat) (cells : List (Nat × Nat)) (ac : Word) (l : Bit) : Host.Outcome State Fault Refusal :=
  step ({ loaded cells with ac := ac, link := l }.withFetchWord 18 w)

/-- What most vectors list: `AC`, `L` and `PC`. -/
def regs (s : State) : Word × Bit × Addr := (s.ac, s.link, s.pc)

/-- The latches and the cost. -/
def latches (s : State) : Addr × Word × Nat := (s.ea, s.mb, s.cycles)

/-! ### Decoding: words from spec/30_encoding.md R81, R83 and spec/42_operate.md R165 -/

theorem test_decode_memref :
    [0b0000_0_0000001000000, 0b0001_1_0011001000000, 0b0010_0_0010010000000, 0b0011_1_1111111111111,
      0b0100_0_0010001000000, 0b0101_1_0010001000000, 0b0110_0_0000000000000, 0b0111_1_0010001000000,
      0b1000_0_0010001000000, 0b1001_1_0010001000000, 0b1010_0_0010001000000, 0b1011_1_0010001000000,
      0b1100_0_0010101000000].map (decodeTableWord 18) =
    [.cal false 0o100, .dac true 0o3100, .jms false 0o2200, .dzm true 0o17777, .lac false 0o2100,
      .xor true 0o2100, .add false 0, .tad true 0o2100, .xct false 0o2100, .isz true 0o2100,
      .and false 0o2100, .sad true 0o2100, .jmp false 0o2500].map some := rfl

theorem test_decode_iot_and_illegal :
    [0b111000000011001010, 0b111000000100000110, 0b111000000110000110, 0o640000, 0o677777, 0o700000, 0o737777].map
      (decodeTableWord 18) =
    [.krb, .tls, .dsp, .opcode13 0, .opcode13 0o37777, .otherIot 0, .otherIot 0o37777].map some := rfl

theorem test_decode_operate_single_bits :
    [0b111100000000000000, 0b111100000000000001, 0b111100000000000010, 0b111100000000000100, 0b111100000000001000,
      0b111100000000010000, 0b111100000000100000, 0b111100000001000000, 0b111100000010000000, 0b111100000100000000,
      0b111100001000000000, 0b111100100000000000, 0b111101000000000000].map (decodeTableWord 18) =
    [.nop, .cma, .cml, .oas, .ral, .rar, .hlt, .sma, .sza, .snl, .skp, .cll, .cla].map some := rfl

theorem test_decode_operate_combined :
    [0b111100001001000000, 0b111100001010000000, 0b111100001100000000, 0b111100010000001000, 0b111100010000010000,
      0b111100100000000010, 0b111100100000001000, 0b111100100000010000, 0b111101000000000001, 0b111101000000000100,
      0b111101000000001000, 0o754000, 0o742000, 0b111110000001010011].map (decodeTableWord 18) =
    [.spa, .sna, .szl, .rtl, .rtr, .stl, .rcl, .rcr, .clc, .las, .glk, .opr 0o14000, .opr 0o02000,
      .law 0o00123].map some := rfl

theorem test_decode_rejects_wide_numbers :
    decodeTableWord 18 (2 ^ 18) = none ∧ decodeTableWord 18 (2 ^ 18 - 1) = some (.law 0o17777) := by decide

/-- R89's example, and `TAD I 2100` of vector E2. -/
theorem test_assembledWord : assembledWord [0o750000, 0o744000] false 0 = 0o754000 ∧
    assembledWord [0o340000] true 0o2100 = 0o362100 := by decide

/-! ### Ill-formed terms (WellFormed) and parameters outside R7 -/

theorem test_illFormed_opr : (Instr.opr oprHlt).wellFormed Params.default = false := by decide

theorem test_illFormed_otherIot : (Instr.otherIot 0o00312).wellFormed Params.default = false := by decide

theorem test_wellFormed_opr : (Instr.opr 0o14000).wellFormed Params.default = true := by decide

theorem test_params_outside_R7 :
    [{ Params.default with iotKrb := 0o640000 }, { Params.default with iotTls := 0o700312 },
      { Params.default with iotDsp := 0o700406 }, { Params.default with xctMaxDepth := 2 },
      { Params.default with cols := 0 }, { Params.default with rows := 0 },
      { Params.default with chCr := 0o00 }].map Params.wf = [false, false, false, false, false, false, false] := by
  decide

/-! ### Memory-reference vectors (V) and the source's examples (S) -/

theorem test_V1_cal : after regs (run 0o000100 [(0o100, 0o123)] 0 0) = some (0o123, 0, 0o101) ∧
    after (·.readWord 0o100) (run 0o000100 [(0o100, 0o123)] 0 0) = some 0o002001 := by decide

theorem test_V3_cal_indirect :
    after regs (run 0o020010 [(0o10, 0o200), (0o200, 7)] 0 0) = some (7, 0, 0o201) ∧
    after latches (run 0o020010 [(0o10, 0o200), (0o200, 7)] 0 0) = some (0o200, 7, 3) := by decide

theorem test_V5_dac_indirect :
    after (·.readWord 0o3000) (run 0o062100 [(0o2100, 0o743000)] 0o42 0) = some 0o42 ∧
    after latches (run 0o062100 [(0o2100, 0o743000)] 0o42 0) = some (0o3000, 0, 3) := by decide

theorem test_V6_jms : after regs (run 0o102200 [] 0 1) = some (0, 1, 0o2201) ∧
    after (·.readWord 0o2200) (run 0o102200 [] 0 1) = some 0o402001 := by decide

theorem test_V8_jms_wraps : after regs (run 0o117777 [] 0 0) = some (0, 0, 0) := by decide

theorem test_V9_dzm : after (·.readWord 0o3000) (run 0o143000 [(0o3000, 0o55)] 1 0) = some 0 ∧
    after latches (run 0o143000 [(0o3000, 0o55)] 1 0) = some (0o3000, 0o55, 2) := by decide

theorem test_S2_lac_indirect :
    after regs (run 0o222100 [(0o2100, 0o023000), (0o3000, 0o11)] 0 0) = some (0o11, 0, 0o2001) ∧
    after latches (run 0o222100 [(0o2100, 0o023000), (0o3000, 0o11)] 0 0) = some (0o3000, 0o11, 3) := by decide

theorem test_V11_xor : after regs (run 0o242100 [(0o2100, 0o777000)] 0o707070 1) = some (0o070070, 1, 0o2001) := by
  decide

theorem test_V12_and : after regs (run 0o502100 [(0o2100, 0o777000)] 0o707070 1) = some (0o707000, 1, 0o2001) := by
  decide

theorem test_V20_add : after regs (run 0o302100 [(0o2100, 0o777776)] 0o777776 0) = some (0o777775, 1, 0o2001) := by
  decide

theorem test_V22_add_negzero : after regs (run 0o302100 [(0o2100, 1)] 0o777776 1) = some (0, 1, 0o2001) := by decide

theorem test_V30_tad : after regs (run 0o342100 [(0o2100, 1)] 0o777777 0) = some (0, 1, 0o2001) := by decide

theorem test_V31_tad_toggles : after regs (run 0o342100 [(0o2100, 1)] 0o777777 1) = some (0, 0, 0o2001) := by decide

theorem test_V41_xct_jms : after regs (run 0o402100 [(0o2100, 0o103000)] 0 0) = some (0, 0, 0o3001) ∧
    after latches (run 0o402100 [(0o2100, 0o103000)] 0 0) = some (0o2100, 0o103000, 3) := by decide

theorem test_V43_xct_itself :
    after (fun t => (t.fault, t.cycles, t.prun)) (run 0o402100 [(0o2100, 0o402100)] 0 0) =
      some (some { cause := .xctDepth, word := 0o402100, pc := 0o2000 }, 0, false) := by decide

theorem test_S3_isz : after regs (run 0o442100 [(0o2100, 0o777777)] 0 0) = some (0, 0, 0o2002) ∧
    after (·.readWord 0o2100) (run 0o442100 [(0o2100, 5)] 0 0) = some 6 := by decide

theorem test_V53_sad : after regs (run 0o542100 [(0o2100, 0o777777)] 0 0) = some (0, 0, 0o2002) ∧
    after regs (run 0o542100 [(0o2100, 5)] 5 0) = some (5, 0, 0o2001) := by decide

theorem test_V55_jmp_indirect : after regs (run 0o622200 [(0o2200, 0o402004)] 0 0) = some (0, 0, 0o2004) := by decide

theorem test_E4_bad_opcode :
    after (fun t => (t.fault, t.pc, t.cycles)) (run 0o640000 [] 0 0) =
      some (some { cause := .badOpcode, word := 0o640000, pc := 0o2000 }, 0o2001, 0) := by decide

theorem test_E6_bad_iot :
    after (·.fault) (run 0o700314 [] 0 0) = some (some { cause := .badIot, word := 0o700314, pc := 0o2000 }) := by
  decide

/-! ### Operate vectors (O) -/

theorem test_O_plain : [0o740000, 0o740001, 0o740002, 0o744000, 0o744002, 0o750000, 0o750001, 0o754000].map
      (fun w => after regs (run w [] 7 1)) =
    [(7, 1, 0o2001), (0o777770, 1, 0o2001), (7, 0, 0o2001), (7, 0, 0o2001), (7, 1, 0o2001), (0, 1, 0o2001),
      (0o777777, 1, 0o2001), (0, 0, 0o2001)].map some := by decide

theorem test_O6_to_O9_rotates : after regs (run 0o740010 [] 1 1) = some (3, 0, 0o2001) ∧
    after regs (run 0o740010 [] 0o400000 0) = some (0, 1, 0o2001) ∧
    after regs (run 0o740020 [] 1 0) = some (0, 1, 0o2001) ∧
    after regs (run 0o740020 [] 0 1) = some (0o400000, 0, 0o2001) := by decide

theorem test_O10_to_O12_double_rotates : after regs (run 0o742010 [] 0o200000 0) = some (0, 1, 0o2001) ∧
    after regs (run 0o742010 [] 0o777777 0) = some (0o777775, 1, 0o2001) ∧
    after regs (run 0o742020 [] 3 0) = some (0o400000, 1, 0o2001) := by decide

theorem test_O27_O28_O31_clear_and_rotate : after regs (run 0o744010 [] 0o400001 1) = some (2, 1, 0o2001) ∧
    after regs (run 0o744020 [] 0o400001 1) = some (0o200000, 1, 0o2001) ∧
    after regs (run 0o750010 [] 0o777 1) = some (1, 0, 0o2001) := by decide

theorem test_O13_O14_hlt : after (fun t => (t.run, t.pc, t.cycles)) (run 0o740040 [] 1 0) = some (false, 0o2001, 1) ∧
    after (fun t => (t.run, t.pc)) (run 0o740240 [] 0 0) = some (false, 0o2002) := by decide

theorem test_O_skips_taken : [0o740100, 0o740200, 0o740400, 0o741000, 0o741100, 0o741200, 0o741400].map
      (fun w => (after (·.pc) (run w [] 0o400000 1), after (·.pc) (run w [] 0 0))) =
    [(0o2002, 0o2001), (0o2001, 0o2002), (0o2002, 0o2001), (0o2002, 0o2002), (0o2001, 0o2002), (0o2002, 0o2001),
      (0o2001, 0o2002)].map (fun q => (some q.1, some q.2)) := by decide

theorem test_O32_to_O36_order : after regs (run 0o750200 [] 5 0) = some (0, 0, 0o2002) ∧
    after regs (run 0o750100 [] 0o400000 0) = some (0, 0, 0o2001) ∧
    after regs (run 0o745400 [] 0 1) = some (0, 0, 0o2002) ∧
    after regs (run 0o740410 [] 0o400000 0) = some (0, 1, 0o2002) := by decide

theorem test_O37_cla_cma_ral : after regs (run 0o750011 [] 5 0) = some (0o777776, 1, 0o2001) := by decide

/-- O4 and O5, for whatever value the switches give. -/
theorem test_O4_O5_switches :
    after regs (run 0o740004 [] 0o70 0) = some (0o70 ||| Config.drawSwitches 0, 0, 0o2001) ∧
    after regs (run 0o750004 [] 0o70 0) = some (0 ||| Config.drawSwitches 0, 0, 0o2001) := ⟨rfl, rfl⟩

theorem test_O38_to_O40_bad_operate : [0o740030, 0o742000, 0o760000].map (fun w => after (·.fault) (run w [] 0 0)) =
    [0o740030, 0o742000, 0o760000].map
      (fun w => some (some { cause := .badOperate, word := w, pc := 0o2000 })) := by decide

theorem test_O41_law :
    after regs (step ({ State.reset with params := { Params.default with optLaw := true } }.withFetchWord 18 0o760123)) =
      some (0o760123, 0, 0o2001) := by decide

/-! ### IOT vectors (M) -/

/-- M1, for whatever value the keyboard gives. -/
theorem test_M1_krb : after regs (run 0o700312 [] 0o777777 0) = some (0#10 ++ Config.drawKeyboard 0, 0, 0o2001) := rfl

theorem test_M2_tls : after (fun t => (t.mbxTty, t.ac)) (run 0o700406 [] 0o777541 0) = some (0o141, 0o777541) := by
  decide

theorem test_M3_dsp : after (·.mbxDsp) (run 0o700606 [] 0o060000 0) = some 0o060000 := by decide

/-- A full display mailbox, for the hold and the overwrite. -/
def fullMailbox (policy : MailboxPolicy) : State :=
  { State.reset with ac := 5, mbxDsp := 0o060000, params := { Params.default with mailboxPolicy := policy } }.withFetchWord
    18 0o700606

theorem test_M4_hold : after (fun t => (t.pc, t.ir, t.cycles, t.mbxDsp)) (step (fullMailbox .block)) =
    some (0o2000, 0, 0, 0o060000) := by decide

theorem test_M5_overwrite : after (fun t => (t.pc, t.overwrites, t.mbxDsp)) (step (fullMailbox .overwrite)) =
    some (0o2001, 1, 5) := by decide

/-! ### Display and teleprinter vectors (D, T) -/

/-- One display word in a mode, from a cursor: the calls but for `present()`, the mode and the cursor. -/
def display (m : DisplayMode) (cx cy : Nat) (x : Word) : List SurfaceCall × DisplayMode × Nat × Nat :=
  let t := decodeDisplay x { State.reset with mode := m, curX := cx, curY := cy }
  (t.trace.dropLast, t.mode, t.curX, t.curY)

theorem test_D1_to_D5_parameter : [0o020000, 0o060000, 0o100000, 0o040000, 0o120000, 0o160000, 0o117777].map
      (fun x => (display .parameter 0 0 x).2.1) =
    [.point, .character, .vector, .parameter, .parameter, .parameter, .vector] := by decide

theorem test_D6_to_D10_point : [0o222100, 0o022100, 0o300077, 0o602100, 0o223777].map (display .point 0 0) =
    [([.drawPoint 576 512 true], .point, 0, 0), ([.drawPoint 512 576 true], .point, 0, 0),
      ([.drawPoint 575 512 false], .vector, 0, 0), ([.drawPoint 576 512 true], .parameter, 0, 0),
      ([.drawPoint 1535 512 true], .point, 0, 0)] := by decide

theorem test_D11_point_signed :
    pointCall { Params.default with pointSigned := true } 0o223700 = .drawPoint 448 512 true := by decide

theorem test_D14_to_D17_vector : [0o310240, 0o710240, 0o377777, 0o012005].map (display .vector 0 0) =
    [([.drawLine 512 512 480 496 true], .vector, 0, 0), ([.drawLine 512 512 480 496 true], .parameter, 0, 0),
      ([.drawLine 512 512 385 385 true], .vector, 0, 0), ([.drawLine 512 512 517 532 false], .vector, 0, 0)] := by
  decide

theorem test_D20_to_D22_character :
    display .character 0 0 0o010203 = ([.drawGlyph 0 0 1, .drawGlyph 1 0 2, .drawGlyph 2 0 3], .character, 3, 0) ∧
    display .character 3 0 0o333401 = ([.drawGlyph 0 1 1], .character, 1, 1) ∧
    display .character 0 0 0o013701 = ([.drawGlyph 0 0 1], .parameter, 1, 0) := by decide

theorem test_D24_to_D28_controls : display .character 0 0 0o353501 = ([.drawGlyph 2 0 1], .character, 3, 0) ∧
    display .character 0 0 0o360101 = ([.drawGlyph 0 1 1, .drawGlyph 1 1 1], .character, 2, 1) ∧
    display .character 62 31 0o010203 =
      ([.drawGlyph 62 31 1, .drawGlyph 63 31 2, .drawGlyph 0 0 3], .character, 1, 0) ∧
    display .character 63 5 0o003535 = ([], .character, 1, 6) ∧
    display .character 10 31 0o000034 = ([], .character, 10, 0) := by decide

theorem test_T1_T3_teleprinter :
    [0o101, 0o337].map (fun x => let t := decodeTeleprinter x State.reset; (t.trace, t.tcurX, t.tcurY)) =
    [([.drawGlyph 0 0 1, .drawGlyph 1 0 1, .present], 2, 0), ([.drawGlyph 0 0 3, .present], 1, 0)] := by decide

/-! ### The end of a run and the host's stops (R112, R194, R276) -/

/-- The standard host stops the peripheral once the run has ended, and then nothing is left. -/
theorem test_standard_host : let ended := { State.reset with run := false }
    after (·.prun) (step ended) = some false ∧ step { ended with prun := false } = .fault .runEnded := ⟨rfl, rfl⟩

/-- A host's stop listed for after the end of the run is taken. -/
theorem test_stop_after_the_end :
    after (fun t => (t.prun, t.schedule)) (step { State.reset with run := false, schedule := [.hostStopPeripheral] }) =
      some (false, []) := by decide

/-- What is left of a wait is dropped once the mailbox is empty, and kept while it is full (R193; log 8). -/
theorem test_wait_ends_with_the_slot : let s := { at2000 0o602000 [] with wait := some 3, schedule := [] }
    after (·.wait) (step s) = some none ∧ after (·.wait) (step { s with mbxDsp := 1 }) = some (some 2) := ⟨rfl, rfl⟩

/-- `0o760030` with `OPT_LAW`: LAW wins over the rotate tests (log 27). -/
theorem test_law_with_rotate_bits :
    after (fun t => (t.ac, t.fault))
      (step ({ State.reset with params := { Params.default with optLaw := true } }.withFetchWord 18 0o760030)) =
      some (0o760030, none) := by decide

/-! ### Launch -/

theorem test_launch_default_is_reset : launch LaunchChoice.default [] [] = .ok State.reset := rfl

theorem test_load_error : launch LaunchChoice.default [(8192, 2 ^ 18)] [] = .error .loadAddress ∧
    launch LaunchChoice.default [] [(8191, 2 ^ 18)] = .error .loadValue := ⟨rfl, rfl⟩

theorem test_core_reset : core.reset = State.reset := rfl

/-! ### Witnesses: concrete states and operands that meet the hypotheses of the statements -/

/-- A state with other parameters. -/
def withParams (p : Params) (s : State) : State := { s with params := p }

theorem witness_DecodeOfEncode : Params.default.wf = true ∧
    [Instr.cal true 0o17777, .jmp false 0, .opcode13 0o37777, .krb, .otherIot 0, .otherIot 0o37777, .opr 0o17777,
      .law 0, .glk].map (fun i => i.wellFormed Params.default) = [true, true, true, true, true, true, true, true, true] := by
  decide

theorem witness_IllegalWords : State.reset.params = Params.default ∧
    [0o640000, 0o677777, 0o700000, 0o737777, 0o740030, 0o742000, 0o760000, 0o777777].map
      (fun w => illegalCause Params.default (decode Params.default w)) =
    [.badOpcode, .badOpcode, .badIot, .badIot, .badOperate, .badOperate, .badOperate, .badOperate].map some := by decide

theorem witness_IllegalInstructions : (0o00030 : BitVec 13).getLsbD 3 = true ∧ (0o00030 : BitVec 13).getLsbD 4 = true ∧
    (0o02000 : BitVec 13).getLsbD 10 = true ∧ (0o02000 : BitVec 13).getLsbD 3 = false ∧
    (0o02000 : BitVec 13).getLsbD 4 = false ∧ State.reset.params.optLaw = false := by decide

theorem witness_FaultingStep :
    let s := withParams { Params.default with xctMaxDepth := 3 } (at2000 0o742000 [(0o2100, 0o402101), (0o2101, 0o700314)])
    illegalCause s.params (decode s.params s.fetchWord) = some .badOperate ∧
      chainEnd (s.params.xctMaxDepth - 1) (memoryBuffer false 0o2100 s) s = some (.otherIot 0o00314) ∧
      chainWord (s.params.xctMaxDepth - 1) (memoryBuffer false 0o2100 s) s = 0o700314 ∧
      illegalCause s.params (.otherIot 0o00314) = some .badIot := by decide

theorem witness_SelfExecutingXct :
    let s := withParams { Params.default with xctMaxDepth := 1 } (loaded [(0, 0o400000), (8191, 0o417777)])
    1 ≤ s.params.xctMaxDepth ∧ s.readWord 0 = 0o400000 ||| (0 : Addr).setWidth 18 ∧
      s.readWord 0o17777 = 0o400000 ||| (0o17777 : Addr).setWidth 18 := by decide

/-- The CPU running at a LAC, with the display's mailbox full and no turn fixed. -/
def bothReady : State := { at2000 0o202100 [(0o2100, 5)] with mbxDsp := 0o060000, schedule := [] }

theorem witness_StepRuns_scheduled : let s := at2000 0o202100 []
    decode s.params s.fetchWord = .lac false 0o2100 ∧ s.run = true ∧ s.fault = none ∧ s.schedule = .cpu :: [] := by decide

theorem witness_StepRuns_free : let s := { bothReady with mbxDsp := 0 }
    decode s.params s.fetchWord = .lac false 0o2100 ∧ s.run = true ∧ s.fault = none ∧ s.schedule = [] ∧
      consumerReady s = false := by decide

theorem witness_StepRuns_chosen : ∀ w ∈ [none, some 0, some 3],
    let s := { bothReady with wait := w }
    decode s.params s.fetchWord = .lac false 0o2100 ∧ s.run = true ∧ s.fault = none ∧ s.schedule = [] ∧
      consumerReady s = true ∧ cpuHolds s = false := by decide

/-- A DSP that holds, because the display has not taken the word before. -/
def holding : State := { fullMailbox .block with schedule := [] }

theorem witness_StepRuns_holding : decode holding.params holding.fetchWord = .dsp ∧ holding.run = true ∧
    holding.fault = none ∧ holding.schedule = [] ∧ consumerReady holding = true ∧ cpuHolds holding = true := by decide

/-- The CPU halted while the display still has a word to take. -/
def haltedWithWord : State := { bothReady with run := false }

/-- A fault recorded while the peripheral still runs: no run reaches it, and the statements hold there too. -/
def faultedWithWord : State := { bothReady with fault := some { cause := .badOpcode, word := 0o640000, pc := 0 } }

theorem witness_HaltedCpu : haltedWithWord.run = false ∧ ∃ t, step haltedWithWord = .next t := ⟨rfl, _, rfl⟩

theorem witness_FaultRecord : faultedWithWord.fault ≠ none ∧ ∃ t, step faultedWithWord = .next t :=
  ⟨by decide, _, rfl⟩

/-- A state of a run with a fault recorded. -/
def faulted : State := { faultedWithWord with prun := false }

theorem witness_FaultRecord_in_a_run : faulted.Inv ∧ faulted.fault ≠ none ∧ faulted.schedule = [] ∧
    { faulted with schedule := [.hostStopCpu] }.Inv :=
  have h : faulted.Inv :=
    ⟨by decide, by decide, by decide, by decide, by decide, by decide, fun _ => rfl, fun _ => rfl⟩
  ⟨h, by decide, rfl, h.params, h.mem, h.curX, h.curY, h.tcurX, h.tcurY, fun _ => rfl, fun _ => rfl⟩

theorem witness_HostStops : let ended := { haltedWithWord with mbxDsp := 0 }
    { ended with schedule := [.hostStopCpu] }.schedule = .hostStopCpu :: [] ∧ runEnded ended = true ∧
      ended.schedule = [] ∧ ended.run = false ∧ consumerReady ended = false ∧ ended.prun = true ∧
      haltedWithWord.schedule = [] ∧ haltedWithWord.run = false ∧ consumerReady haltedWithWord = true := by decide

/-- A run that never ends, `JMP .`, from a state whose first fixed turn is the consumer's, its mailbox full. -/
def endlessRun : Nat → State
  | 0 => { at2000 0o602000 [] with mbxDsp := 0o060000, schedule := [.consumer] }
  | 1 => { at2000 0o602000 [] with mode := .character, trace := [.present], schedule := [] }
  | n + 2 =>
    { at2000 0o602000 [] with
      mode := .character, trace := [.present], schedule := []
      ir := 0o602000, ea := 0o2000, mb := 0o602000, cycles := n + 1 }

theorem witness_WeaklyFair_run : (∀ n, step (endlessRun n) = .next (endlessRun (n + 1))) ∧
    consumerReady (endlessRun 0) = true ∧ cpuEnabled (endlessRun 0) = true := by
  refine ⟨?_, rfl, rfl⟩
  intro n
  rcases n with _ | _ | n
  · rfl
  · rfl
  · have hf : (endlessRun (n + 2)).fetchWord = 0o602000 := by
      show Memory.read (at2000 0o602000 []).mem 0o2000 = _
      decide
    have hs : step (endlessRun (n + 2)) = cpuStep (endlessRun (n + 2)) := rfl
    rw [hs, cpuStep, hf]
    rfl

/-- The loop `LAC 2005`, `DSP`, `LAC 2006`, `DSP`, `JMP 2000` under Overwrite, which fills the display's mailbox and
empties it again with a zero word, before the `k`-th instruction: what the loop sets, over any latches and counts. -/
def zeroLoop (k : Nat) (ir : Word) (ea : Addr) (mb : Word) (o c d : Nat) : State :=
  { loaded [(0o2000, 0o202005), (0o2001, 0o700606), (0o2002, 0o202006), (0o2003, 0o700606), (0o2004, 0o602000),
      (0o2005, 7)] with
    params := { Params.default with mailboxPolicy := .overwrite }
    pc := BitVec.ofNat 13 (0o2000 + k)
    ac := if k = 1 ∨ k = 2 then 7 else 0
    mbxDsp := if k = 2 ∨ k = 3 then 7 else 0
    ir := ir, ea := ea, mb := mb, overwrites := o, cycles := c, draws := d }

/-- The word each instruction of the loop is. -/
theorem zeroLoop_fetch (k : Nat) (hk : k < 5) (ir : Word) (ea : Addr) (mb : Word) (o c d : Nat) :
    (zeroLoop k ir ea mb o c d).fetchWord = [0o202005, 0o700606, 0o202006, 0o700606, 0o602000].getD k 0 := by
  have h : ∀ k < 5, Memory.read (zeroLoop k 0 0 0 0 0 0).mem (BitVec.ofNat 13 (0o2000 + k)).toNat =
      [0o202005, 0o700606, 0o202006, 0o700606, 0o602000].getD k 0 := by decide
  exact h k hk

/-- Each instruction of the loop may step, and leaves the state before the next. -/
theorem zeroLoop_step (k : Nat) (hk : k < 5) (ir : Word) (ea : Addr) (mb : Word) (o c d : Nat) :
    cpuEnabled (zeroLoop k ir ea mb o c d) = true ∧ ∃ ir' ea' mb' o' c' d',
      takeTurn .cpu (zeroLoop k ir ea mb o c d) = .next (zeroLoop ((k + 1) % 5) ir' ea' mb' o' c' d') := by
  have hf := zeroLoop_fetch k hk ir ea mb o c d
  rw [cpuEnabled, cpuHolds, hf,
    show takeTurn .cpu (zeroLoop k ir ea mb o c d) = cpuStep (zeroLoop k ir ea mb o c d) from rfl, cpuStep, hf]
  interval_cases k
  · exact ⟨rfl, 0o202005, 0o2005, 7, o, c + 2, d, rfl⟩
  · exact ⟨rfl, 0o700606, Config.drawEa d, Config.drawMb d, o, c + 1, d + 1, rfl⟩
  · exact ⟨rfl, 0o202006, 0o2006, 0, o, c + 2, d, rfl⟩
  · exact ⟨rfl, 0o700606, Config.drawEa d, Config.drawMb d, o + 1, c + 1, d + 1, rfl⟩
  · exact ⟨rfl, 0o602000, 0o2000, 0o202005, o, c + 1, d, rfl⟩

/-- The run in which the CPU alone steps through the loop. -/
def zeroRun : Nat → State
  | 0 => zeroLoop 0 0 0 0 0 0 0
  | n + 1 => (after id (takeTurn .cpu (zeroRun n))).getD State.reset

theorem zeroRun_loops (n : Nat) : ∃ ir ea mb o c d, zeroRun n = zeroLoop (n % 5) ir ea mb o c d := by
  induction n with
  | zero => exact ⟨_, _, _, _, _, _, rfl⟩
  | succ n ih =>
    obtain ⟨ir, ea, mb, o, c, d, h⟩ := ih
    obtain ⟨-, ir', ea', mb', o', c', d', hs⟩ := zeroLoop_step (n % 5) (Nat.mod_lt _ (by decide)) ir ea mb o c d
    refine ⟨ir', ea', mb', o', c', d', ?_⟩
    rw [zeroRun, h, hs, show (n + 1) % 5 = (n % 5 + 1) % 5 by omega]
    rfl

/-- An order in which the consumer, enabled again and again and never for long, never takes: it is weakly fair. -/
theorem witness_WeaklyFair_order : (zeroRun 0).schedule = [] ∧ consumerReady (zeroRun 2) = true ∧
    ∀ n, cpuEnabled (zeroRun n) = true ∧ takeTurn .cpu (zeroRun n) = .next (zeroRun (n + 1)) ∧
      ∃ m, n ≤ m ∧ consumerReady (zeroRun m) = false := by
  refine ⟨rfl, rfl, fun n => ?_⟩
  obtain ⟨ir, ea, mb, o, c, d, h⟩ := zeroRun_loops n
  obtain ⟨he, _, _, _, _, _, _, hs⟩ := zeroLoop_step (n % 5) (Nat.mod_lt _ (by decide)) ir ea mb o c d
  obtain ⟨_, _, _, _, _, _, h0⟩ := zeroRun_loops (5 * n)
  refine ⟨h ▸ he, ?_, 5 * n, by omega, ?_⟩
  · rw [zeroRun, h, hs]
    rfl
  · rw [h0, Nat.mul_mod_right]
    rfl

/-- The same for an order with a take: `endlessRun` from its first state, the turn not fixed but chosen. -/
theorem witness_WeaklyFair_taking : let s := { endlessRun 0 with schedule := [] }
    s.schedule = [] ∧ consumerReady s = true ∧ takeTurn .consumer s = .next (endlessRun 1) ∧
      ∀ n, cpuEnabled (endlessRun (n + 1)) = true ∧ takeTurn .cpu (endlessRun (n + 1)) = .next (endlessRun (n + 2)) ∧
        consumerReady (endlessRun (n + 1)) = false := by
  refine ⟨rfl, rfl, rfl, fun n => ?_⟩
  have hf : (endlessRun (n + 1)).fetchWord = 0o602000 := by
    cases n <;> exact (by decide : Memory.read (at2000 0o602000 []).mem 0o2000 = 0o602000)
  have hs := witness_WeaklyFair_run.1 (n + 1)
  cases n <;> exact ⟨by rw [cpuEnabled, cpuHolds, hf]; rfl, hs, rfl⟩

theorem witness_CanonicalMemory :
    Memory.wf (loaded [(8191, 1), (0, 7), (5, 0)]).mem ∧ (loaded [(8191, 1), (0, 7), (5, 0)]).mem = [(0, 7), (8191, 1)] := by
  decide

theorem witness_Add : ∃ t, exec (.add true 0o17777) (loaded [(8191, 8191)]) = .next t := ⟨_, rfl⟩

/-- Chains that end at once, after one more XCT, and never. -/
theorem witness_Xct_same_state :
    let s := loaded [(0, 0o741000), (1, 0o602500), (2, 0o700314), (3, 0o400000), (4, 0o400004), (8191, 0o700606)]
    [0, 1, 2, 3, 4, 8191].map (fun y => chainEnd (s.params.xctMaxDepth - 1) (memoryBuffer false y s) s) =
      [some .skp, some (.jmp false 0o2500), some (.otherIot 0o00314), some .skp, none, some .dsp] := by decide

theorem witness_Xct_cost : let s := { loaded [(8191, 0o700606), (0, 0o417777), (1, 0o202100)] with mbxTty := 1 }
    [0, 1, 8191].map (fun y => chainEnd (s.params.xctMaxDepth - 1) (memoryBuffer false y s) s) =
        [some .dsp, some (.lac false 0o2100), some .dsp] ∧
      illegalCause s.params .dsp = none ∧ illegalCause s.params (.lac false 0o2100) = none ∧
      s.params.mailboxPolicy = .block ∧ s.mbxTty ≠ 0 ∧ s.mbxDsp = 0 := by decide

theorem witness_MailboxWrite_block : State.reset.params.mailboxPolicy = .block ∧ State.reset.mbxTty = 0 ∧
    State.reset.mbxDsp = 0 ∧ { State.reset with mbxTty := 1 }.mbxTty ≠ 0 ∧
      (fullMailbox .block).params.mailboxPolicy = .block ∧ (fullMailbox .block).mbxDsp ≠ 0 := by decide

theorem witness_MailboxWrite_overwrite : (fullMailbox .overwrite).params.mailboxPolicy = .overwrite ∧
    (fullMailbox .overwrite).mbxDsp ≠ 0 ∧ (fullMailbox .overwrite).mbxTty = 0 := by decide

theorem witness_Mailboxes_block : ∃ t, exec .dsp (fullMailbox .block) = .next t ∧ t.mbxDsp ≠ 0 := ⟨_, rfl, by decide⟩

theorem witness_Mailboxes_overwrite : ∃ t, exec .dsp (fullMailbox .overwrite) = .next t ∧
    (fullMailbox .overwrite).mbxDsp ≠ 0 ∧ t.mbxDsp ≠ (fullMailbox .overwrite).mbxDsp := ⟨_, rfl, by decide, by decide⟩

theorem witness_LegalOperate : [0o00000, 0o02010, 0o02020, 0o17757, 0o17767].map (fun b : BitVec 13 =>
      (!(b.getLsbD 3 && b.getLsbD 4), !b.getLsbD 10 || b.getLsbD 3 || b.getLsbD 4)) =
    [(true, true), (true, true), (true, true), (true, true), (true, true)] := by decide

theorem witness_Law : { Params.default with optLaw := true }.optLaw = true ∧ Params.default.optLaw = false := by decide

theorem witness_NoStore : (∀ d y, Instr.lac true 0 ≠ .cal d y ∧ Instr.lac true 0 ≠ .dac d y ∧ Instr.lac true 0 ≠ .jms d y ∧
      Instr.lac true 0 ≠ .dzm d y ∧ Instr.lac true 0 ≠ .isz d y ∧ Instr.lac true 0 ≠ .xct d y) ∧
    ∃ t, exec (.lac true 0) (loaded [(0, 8191)]) = .next t := ⟨by simp, _, rfl⟩

theorem witness_SameLink : let i := Instr.opr 0o10100
    (∀ d y, i ≠ .add d y ∧ i ≠ .tad d y ∧ i ≠ .xct d y) ∧
    i ∉ [Instr.cml, .ral, .rar, .rtl, .rtr, .cll, .stl, .rcl, .rcr, .glk] ∧
    (∀ bits : BitVec 13, i = .opr bits →
      bits.getLsbD 1 = false ∧ bits.getLsbD 3 = false ∧ bits.getLsbD 4 = false ∧ bits.getLsbD 11 = false) ∧
    ∃ t, exec i State.reset = .next t :=
  ⟨by simp, by simp, fun bits h => by cases h; decide, _, rfl⟩

theorem witness_AnyStep : (∃ t, exec .hlt State.reset = .next t) ∧ ∃ t, step { bothReady with wait := some 0 } = .next t :=
  ⟨⟨_, rfl⟩, _, rfl⟩

theorem witness_Launch :
    ∃ s, launch LaunchChoice.default [(0o2000, 0o740040)] [(0o2000, 0), (8191, 2 ^ 18 - 1)] = .ok s := ⟨_, rfl⟩

theorem witness_Load : Memory.wf [] ∧
    loadPairs [] [(5, 1), (8191, 2 ^ 18 - 1), (5, 7)] = .ok [(5, 7), (8191, 0o777777)] := ⟨by decide, rfl⟩

theorem witness_LaunchChoice : LaunchChoice.default.params.wf = true ∧ Memory.wf LaunchChoice.default.cells := by decide

theorem witness_StepKeepsInv : haltedWithWord.Inv ∧ ∃ t, step haltedWithWord = .next t :=
  ⟨⟨by decide, by decide, by decide, by decide, by decide, by decide, fun h => absurd rfl h, by decide⟩, _, rfl⟩

theorem witness_ConsumerTurn_display : let s := { bothReady with schedule := [.consumer] }
    s.schedule = .consumer :: [] ∧ s.params.peripheral = .display ∧ s.prun = true ∧ s.mbxDsp ≠ 0 := by
  decide

theorem witness_ConsumerTurn_teleprinter :
    let s := withParams { Params.default with peripheral := .teleprinter } { bothReady with mbxTty := 1, schedule := [.consumer] }
    s.schedule = .consumer :: [] ∧ s.params.peripheral = .teleprinter ∧ s.prun = true ∧
      s.mbxTty ≠ 0 := by decide

theorem witness_ConsumerTurn_nothing : let s := { bothReady with prun := false, schedule := [.consumer] }
    s.schedule = .consumer :: [] ∧ s.prun = false ∧ { s with mbxDsp := 0 }.mbxDsp = 0 ∧ s.params.peripheral = .display ∧
      { s.params with peripheral := .none }.peripheral = .none := by decide

theorem witness_Consumer_agree : let t := { bothReady with ac := 7, pc := 0, mem := [] }
    bothReady ≠ t ∧ bothReady.params = t.params ∧ bothReady.mbxTty = t.mbxTty ∧ bothReady.mbxDsp = t.mbxDsp ∧
      bothReady.mode = t.mode ∧ bothReady.curX = t.curX ∧ bothReady.curY = t.curY ∧ bothReady.tcurX = t.tcurX ∧
      bothReady.tcurY = t.tcurY ∧ bothReady.trace = t.trace := by decide

theorem witness_TakeCommutes : bothReady.params.mailboxPolicy = .block ∧ cpuRunning bothReady = true ∧
    consumerReady bothReady = true ∧ cpuHolds bothReady = false ∧ ∃ t, cpuStep bothReady = .next t ∧ t.fault = none :=
  ⟨rfl, rfl, rfl, rfl, _, rfl, rfl⟩

theorem witness_Modes : [DisplayMode.parameter, .point, .vector, .character].map
    (fun m => { State.reset with mode := m }.mode) = [.parameter, .point, .vector, .character] := rfl

theorem witness_CharacterWord : let s := { State.reset with mode := .character, curX := 63 }
    s.mode = .character ∧ (0o013701 : Word).toNat = (0o01 : Code).toNat * 64 ^ 2 + (0o37 : Code).toNat * 64 + (0o01 : Code).toNat ∧
      s.params.wf = true ∧ ordinaryCode s.params 0o01 = true ∧ s.curX < s.params.cols ∧ s.curX + 1 = s.params.cols := by
  decide

theorem witness_ThreeOrdinaryCodes : let s := { State.reset with mode := .character, curX := 61 }
    s.mode = .character ∧ (0o013277 : Word).toNat = (0o01 : Code).toNat * 64 ^ 2 + (0o32 : Code).toNat * 64 + (0o77 : Code).toNat ∧
      ordinaryCode s.params 0o01 = true ∧ ordinaryCode s.params 0o32 = true ∧ ordinaryCode s.params 0o77 = true ∧
      s.curX + 3 ≤ s.params.cols ∧ State.reset.curX + 3 ≠ s.params.cols := by decide

theorem witness_Teleprinter : State.reset.params.chNul = 0 ∧ State.reset.params.chEsc ≠ 0 ∧
    (0o101 : Word).toNat = (0 : Code).toNat * 64 ^ 2 + (1 : Code).toNat * 64 + (1 : Code).toNat ∧
    (decodeGroups State.reset.params [1, 1] 0 0).calls.length = 2 := by decide

end Sys2Proof.Tests
end

/-! What an instruction leaves as it was (spec/10_state.md R39). A relation between states that every write of the
instruction cycle itself respects (spec/40_cycle.md R100, R102, R109, R113, spec/60_exceptions.md R253) passes from an
instruction's own act to its whole step. -/

namespace Sys2Proof.Machine

/-! ### From an act to the step around it -/

/-- A preorder that every write of the instruction cycle respects: the fetch, the latches, the cost and a fault
that is taken. -/
structure CycleFrame (R : State → State → Prop) : Prop where
  refl : ∀ s, R s s
  trans : ∀ {s t u}, R s t → R t u → R s u
  fetched : ∀ s, R s s.fetched
  latched : ∀ s ind y, R s (s.latched ind y)
  addCycles : ∀ s n, R s (s.addCycles n)
  drawLatches : ∀ s, R s s.drawLatches
  takeFault : ∀ c w pc s, R s (takeFault c w pc s)

/-- The effect, whenever it is done, leaves a state so related to the one before. -/
def RelatesWhenDone (R : State → State → Prop) (effect : State → Effect) : Prop :=
  ∀ s t, effect s = .done t → R s t

section CycleFrame

variable {R : State → State → Prop} {cost : CycTable → Nat} {act : Addr → Word → State → State}
  {effect : State → Effect} {ind : Bool} {y : Addr} {s t : State}

theorem CycleFrame.memrefEffect (hR : CycleFrame R) (h : memrefEffect cost act ind y s = .done t)
    (hact : ∀ ea mb u, R u (act ea mb u)) : R s t := by
  rw [memrefEffect_eq] at h
  cases h
  exact hR.trans (hact _ _ _) (hR.addCycles _ _)

theorem CycleFrame.memrefStep (hR : CycleFrame R) (h : memrefStep cost act ind y s = .next t)
    (hact : ∀ ea mb u, R u (act ea mb u)) : R s t := by
  rw [memrefStep_eq] at h
  cases h
  have hprep : R s (s.fetched.latched ind y) := hR.trans (hR.fetched s) (hR.latched _ ind y)
  exact hR.trans hprep (hR.trans (hact _ _ _) (hR.addCycles _ _))

theorem CycleFrame.registerEffect (hR : CycleFrame R) (h : registerEffect cost effect s = .done t)
    (he : RelatesWhenDone R effect) : R s t := by
  obtain ⟨u, hu, rfl⟩ := Effect.charge_eq_done.mp h
  exact hR.trans (he s u hu) (hR.addCycles _ _)

theorem CycleFrame.registerStep (hR : CycleFrame R) (h : registerStep cost effect s = .next t)
    (he : RelatesWhenDone R effect) : R s t := by
  rcases registerStep_cases h with ⟨u, hu, rfl⟩ | ⟨-, rfl⟩ | ⟨c, w, -, rfl⟩
  · have hdone : R s u := hR.trans (hR.fetched s) (he _ _ hu)
    exact hR.trans hdone (hR.trans (hR.addCycles _ _) (hR.drawLatches _))
  · exact hR.refl _
  · exact hR.trans (hR.fetched s) (hR.takeFault _ _ _ _)

/-- The step of an XCT relates the states when every nested word does (R110). -/
theorem CycleFrame.execXct (hR : CycleFrame R) (h : execXct ind y s = .next t)
    (he : ∀ fuel w, RelatesWhenDone R (execWord fuel w)) : R s t := by
  have hprep : R s (s.fetched.latched ind y) := hR.trans (hR.fetched s) (hR.latched _ ind y)
  rcases finishStep_cases h with hd | ⟨-, rfl⟩ | ⟨c, w, -, rfl⟩
  · obtain ⟨u, hu, rfl⟩ := Effect.charge_eq_done.mp hd
    exact hR.trans hprep (hR.trans (he _ _ _ _ hu) (hR.addCycles _ _))
  · exact hR.refl _
  · exact hR.trans hprep (hR.takeFault _ _ _ _)

end CycleFrame

/-! ### What a completed effect has done -/

/-- A word with `OP` = 13 never completes: its only effect is the fault (R252). -/
theorem opcode13Effect_relates (R : State → State → Prop) (rest : BitVec 14) :
    RelatesWhenDone R (opcode13Effect rest) := by
  intro s t h
  cases h

/-- Nor does an unrecognized IOT word (R254). -/
theorem otherIotEffect_relates (R : State → State → Prop) (rest : BitVec 14) :
    RelatesWhenDone R (otherIotEffect rest) := by
  intro s t h
  cases h

/-- A mailbox write that is done has only put the word in its slot, and counted an overwrite (R185, R186). -/
theorem mailboxWrite_done {m : Mailbox} {v : Word} {s t : State} (h : mailboxWrite m v s = .done t) :
    t = s.withMailbox m v ∨ t = { s.withMailbox m v with overwrites := s.overwrites + 1 } := by
  rcases mailboxWrite_cases m v s with ⟨-, he⟩ | ⟨-, -, he⟩ | ⟨-, -, he⟩ <;> rw [he] at h <;> cases h
  · exact .inl rfl
  · exact .inr rfl

theorem operateEffect_done {bits : BitVec 13} {s t : State} (h : operateEffect bits s = .done t) :
    t = operate bits s := by
  unfold operateEffect at h
  split_ifs at h
  cases h
  rfl

theorem lawEffect_done {k : BitVec 13} {s t : State} (h : lawEffect k s = .done t) :
    t = { s with ac := lawWord k } := by
  unfold lawEffect at h
  split_ifs at h
  cases h
  rfl

/-- An operate word leaves the memory (R153). -/
theorem operate_mem (bits : BitVec 13) (s : State) : (operate bits s).mem = s.mem := State.skipWhen_mem _ _

/-- An operate word leaves the count of overwritten words (R153). -/
theorem operate_overwrites (bits : BitVec 13) (s : State) : (operate bits s).overwrites = s.overwrites :=
  State.skipWhen_overwrites _ _

/-- No CLL, no CML and no rotate among the micro-operations, which are all that act on the Link (R155, R157, R158). -/
def LeavesLink (bits : BitVec 13) : Prop :=
  bits.getLsbD 1 = false ∧ bits.getLsbD 3 = false ∧ bits.getLsbD 4 = false ∧ bits.getLsbD 11 = false

theorem operate_link {bits : BitVec 13} (hb : LeavesLink bits) (s : State) : (operate bits s).link = s.link := by
  obtain ⟨hcml, hleft, hright, hcll⟩ := hb
  simp only [operate, State.skipWhen_link, operateAcLink, operateRotates, operateComplements, operateSwitches,
    operateClears, hcml, hleft, hright, hcll, Bool.false_eq_true, if_false]

/-! ### The memory -/

/-- The memory is the same in both states. -/
def SameMemory (s t : State) : Prop := t.mem = s.mem

theorem sameMemory_cycleFrame : CycleFrame SameMemory where
  refl _ := rfl
  trans h k := Eq.trans k h
  fetched _ := rfl
  latched _ _ _ := rfl
  addCycles _ _ := rfl
  drawLatches _ := rfl
  takeFault _ _ _ _ := rfl

/-- Settles O39: the storing instructions aside, no act and no effect writes the memory. -/
theorem onlyTheStoringInstructionsWriteMemory : Obligations.OnlyTheStoringInstructionsWriteMemory := by
  intro i s t hi h
  have frame := sameMemory_cycleFrame
  cases i <;> unfold exec at h <;> dsimp only at h
  case cal d y | dac d y | jms d y | dzm d y | isz d y | xct d y => simpa using hi d y
  case lac | xor | add | tad | and | jmp => exact frame.memrefStep h fun _ _ _ => rfl
  case sad => exact frame.memrefStep h fun _ _ _ => State.skipWhen_mem _ _
  case opcode13 rest => exact frame.registerStep h (opcode13Effect_relates _ rest)
  case otherIot rest => exact frame.registerStep h (otherIotEffect_relates _ rest)
  case krb => exact frame.registerStep h fun _ _ hd => by cases hd; rfl
  case tls | dsp =>
    exact frame.registerStep h fun _ _ hd => by rcases mailboxWrite_done hd with rfl | rfl <;> rfl
  case law => exact frame.registerStep h fun _ _ hd => by rw [lawEffect_done hd]; rfl
  all_goals exact frame.registerStep h fun _ _ hd => operateEffect_done hd ▸ operate_mem _ _

/-! ### The Link -/

/-- The Link is the same in both states. -/
def SameLink (s t : State) : Prop := t.link = s.link

theorem sameLink_cycleFrame : CycleFrame SameLink where
  refl _ := rfl
  trans h k := Eq.trans k h
  fetched _ := rfl
  latched _ _ _ := rfl
  addCycles _ _ := rfl
  drawLatches _ := rfl
  takeFault _ _ _ _ := rfl

theorem operateEffect_sameLink {bits : BitVec 13} (hb : LeavesLink bits) :
    RelatesWhenDone SameLink (operateEffect bits) :=
  fun _ _ hd => operateEffect_done hd ▸ operate_link hb _

/-- Settles O40: the two additions aside, only an operate word with CLL, CML or a rotate writes the Link, and the bits
of each named word say whether it is one. -/
theorem onlyTheseInstructionsChangeTheLink : Obligations.OnlyTheseInstructionsChangeTheLink := by
  intro i s t hi hnamed hopr h
  have frame := sameLink_cycleFrame
  cases i <;> unfold exec at h <;> dsimp only at h
  case add d y | tad d y | xct d y => simpa using hi d y
  case cml | ral | rar | rtl | rtr | cll | stl | rcl | rcr | glk => simp at hnamed
  case cal | dac | jms | dzm | lac | xor | and | jmp => exact frame.memrefStep h fun _ _ _ => rfl
  case isz | sad => exact frame.memrefStep h fun _ _ _ => State.skipWhen_link _ _
  case opcode13 rest => exact frame.registerStep h (opcode13Effect_relates _ rest)
  case otherIot rest => exact frame.registerStep h (otherIotEffect_relates _ rest)
  case krb => exact frame.registerStep h fun _ _ hd => by cases hd; rfl
  case tls | dsp =>
    exact frame.registerStep h fun _ _ hd => by rcases mailboxWrite_done hd with rfl | rfl <;> rfl
  case law => exact frame.registerStep h fun _ _ hd => by rw [lawEffect_done hd]; rfl
  case opr bits => exact frame.registerStep h (operateEffect_sameLink (hopr bits rfl))
  case nop | cma | oas | hlt | sma | sza | snl | skp | spa | sna | szl | cla | clc | las =>
    exact frame.registerStep h (operateEffect_sameLink ⟨rfl, rfl, rfl, rfl⟩)

/-! ### Every instruction at once -/

/-- A relation that the cycle respects and so does every instruction's own act or effect; the named operate words
share the operate word's. -/
structure InstrFrame (R : State → State → Prop) : Prop extends CycleFrame R where
  cal : ∀ ea mb s, R s (calAct ea mb s)
  dac : ∀ ea mb s, R s (dacAct ea mb s)
  jms : ∀ ea mb s, R s (jmsAct ea mb s)
  dzm : ∀ ea mb s, R s (dzmAct ea mb s)
  lac : ∀ ea mb s, R s (lacAct ea mb s)
  xor : ∀ ea mb s, R s (xorAct ea mb s)
  add : ∀ ea mb s, R s (addAct ea mb s)
  tad : ∀ ea mb s, R s (tadAct ea mb s)
  isz : ∀ ea mb s, R s (iszAct ea mb s)
  and : ∀ ea mb s, R s (andAct ea mb s)
  sad : ∀ ea mb s, R s (sadAct ea mb s)
  jmp : ∀ ea mb s, R s (jmpAct ea mb s)
  krb : RelatesWhenDone R krbEffect
  tls : RelatesWhenDone R tlsEffect
  dsp : RelatesWhenDone R dspEffect
  law : ∀ k, RelatesWhenDone R (lawEffect k)
  operate : ∀ bits, RelatesWhenDone R (operateEffect bits)

/-- It relates the states around a nested word, to any depth (R103, R110). -/
theorem InstrFrame.execWord {R : State → State → Prop} (hR : InstrFrame R) (fuel : Nat) (w : Word) :
    RelatesWhenDone R (execWord fuel w) := by
  have frame := hR.toCycleFrame
  induction fuel generalizing w with
  | zero =>
    intro s t h
    cases h
  | succ fuel ih =>
    intro s t h
    unfold Machine.execWord at h
    cases hd : decode s.params w <;> simp only [hd] at h
    case xct ind y =>
      obtain ⟨u, hu, rfl⟩ := Effect.charge_eq_done.mp h
      exact hR.trans (ih _ s u hu) (hR.addCycles _ _)
    case cal => exact frame.memrefEffect h hR.cal
    case dac => exact frame.memrefEffect h hR.dac
    case jms => exact frame.memrefEffect h hR.jms
    case dzm => exact frame.memrefEffect h hR.dzm
    case lac => exact frame.memrefEffect h hR.lac
    case xor => exact frame.memrefEffect h hR.xor
    case add => exact frame.memrefEffect h hR.add
    case tad => exact frame.memrefEffect h hR.tad
    case isz => exact frame.memrefEffect h hR.isz
    case and => exact frame.memrefEffect h hR.and
    case sad => exact frame.memrefEffect h hR.sad
    case jmp => exact frame.memrefEffect h hR.jmp
    case opcode13 rest => exact frame.registerEffect h (opcode13Effect_relates R rest)
    case krb => exact frame.registerEffect h hR.krb
    case tls => exact frame.registerEffect h hR.tls
    case dsp => exact frame.registerEffect h hR.dsp
    case otherIot rest => exact frame.registerEffect h (otherIotEffect_relates R rest)
    case law k => exact frame.registerEffect h (hR.law k)
    all_goals exact frame.registerEffect h (hR.operate _)

/-- It relates the states around the whole step of any instruction (R100). -/
theorem InstrFrame.exec {R : State → State → Prop} (hR : InstrFrame R) {i : Instr} {s t : State}
    (h : exec i s = .next t) : R s t := by
  have frame := hR.toCycleFrame
  cases i <;> unfold Machine.exec at h <;> dsimp only at h
  case xct => exact frame.execXct h hR.execWord
  case cal => exact frame.memrefStep h hR.cal
  case dac => exact frame.memrefStep h hR.dac
  case jms => exact frame.memrefStep h hR.jms
  case dzm => exact frame.memrefStep h hR.dzm
  case lac => exact frame.memrefStep h hR.lac
  case xor => exact frame.memrefStep h hR.xor
  case add => exact frame.memrefStep h hR.add
  case tad => exact frame.memrefStep h hR.tad
  case isz => exact frame.memrefStep h hR.isz
  case and => exact frame.memrefStep h hR.and
  case sad => exact frame.memrefStep h hR.sad
  case jmp => exact frame.memrefStep h hR.jmp
  case opcode13 rest => exact frame.registerStep h (opcode13Effect_relates R rest)
  case krb => exact frame.registerStep h hR.krb
  case tls => exact frame.registerStep h hR.tls
  case dsp => exact frame.registerStep h hR.dsp
  case otherIot rest => exact frame.registerStep h (otherIotEffect_relates R rest)
  case law k => exact frame.registerStep h (hR.law k)
  all_goals exact frame.registerStep h (hR.operate _)

/-! ### What every CPU step keeps -/

/-- What the whole step of an instruction leaves as it was or moves one way only, a fault's own writes included. -/
structure ExecKeeps (s t : State) : Prop where
  params : t.params = s.params
  schedule : t.schedule = s.schedule
  wait : t.wait = s.wait
  mode : t.mode = s.mode
  curX : t.curX = s.curX
  curY : t.curY = s.curY
  tcurX : t.tcurX = s.tcurX
  tcurY : t.tcurY = s.tcurY
  trace : t.trace = s.trace
  run : t.run = true → s.run = true
  cycles : s.cycles ≤ t.cycles
  overwrites : s.overwrites ≤ t.overwrites
  mem : Memory.wf s.mem → Memory.wf t.mem
  fault : (t.fault = s.fault ∧ t.prun = s.prun) ∨ t.prun = false

theorem ExecKeeps.trans {s t u : State} (h : ExecKeeps s t) (k : ExecKeeps t u) : ExecKeeps s u where
  params := k.params.trans h.params
  schedule := k.schedule.trans h.schedule
  wait := k.wait.trans h.wait
  mode := k.mode.trans h.mode
  curX := k.curX.trans h.curX
  curY := k.curY.trans h.curY
  tcurX := k.tcurX.trans h.tcurX
  tcurY := k.tcurY.trans h.tcurY
  trace := k.trace.trans h.trace
  run := fun x => h.run (k.run x)
  cycles := le_trans h.cycles k.cycles
  overwrites := le_trans h.overwrites k.overwrites
  mem := fun x => k.mem (h.mem x)
  fault := by
    rcases k.fault with ⟨hf, hp⟩ | hp
    · rw [hf, hp]
      exact h.fault
    · exact .inr hp

/-- What keeps all that an act keeps, and takes no overwrite back, is allowed to a whole step. -/
theorem CpuKeeps.execKeeps {s t : State} (h : CpuKeeps s t) (ho : s.overwrites ≤ t.overwrites) : ExecKeeps s t :=
  { h with overwrites := ho, fault := .inl ⟨h.fault, h.prun⟩ }

theorem execKeeps_cycleFrame : CycleFrame ExecKeeps where
  refl s := (CpuKeeps.refl s).execKeeps le_rfl
  trans := ExecKeeps.trans
  fetched _ := ⟨rfl, rfl, rfl, rfl, rfl, rfl, rfl, rfl, rfl, id, le_rfl, le_rfl, id, .inl ⟨rfl, rfl⟩⟩
  latched s ind y := (CpuKeeps.latched s ind y).execKeeps le_rfl
  addCycles s n := (CpuKeeps.addCycles s n).execKeeps le_rfl
  drawLatches s := (CpuKeeps.drawLatches s).execKeeps le_rfl
  takeFault _ _ _ _ := ⟨rfl, rfl, rfl, rfl, rfl, rfl, rfl, rfl, rfl, id, le_rfl, le_rfl, id, .inr rfl⟩

/-- A mailbox write never takes an overwrite back (R186). -/
theorem mailboxWrite_overwrites {m : Mailbox} {v : Word} {s t : State} (h : mailboxWrite m v s = .done t) :
    s.overwrites ≤ t.overwrites := by
  rcases mailboxWrite_done h with rfl | rfl
  · cases m <;> exact le_rfl
  · exact Nat.le_succ _

theorem execKeeps_instrFrame : InstrFrame ExecKeeps :=
  { execKeeps_cycleFrame with
    cal := fun ea mb s => (calAct_keeps ea mb s).execKeeps le_rfl
    dac := fun ea mb s => (dacAct_keeps ea mb s).execKeeps le_rfl
    jms := fun ea mb s => (jmsAct_keeps ea mb s).execKeeps le_rfl
    dzm := fun ea mb s => (dzmAct_keeps ea mb s).execKeeps le_rfl
    lac := fun ea mb s => (lacAct_keeps ea mb s).execKeeps le_rfl
    xor := fun ea mb s => (xorAct_keeps ea mb s).execKeeps le_rfl
    add := fun ea mb s => (addAct_keeps ea mb s).execKeeps le_rfl
    tad := fun ea mb s => (tadAct_keeps ea mb s).execKeeps le_rfl
    isz := fun ea mb s => (iszAct_keeps ea mb s).execKeeps (State.skipWhen_overwrites (s.writeWord ea (mb + 1)) _).ge
    and := fun ea mb s => (andAct_keeps ea mb s).execKeeps le_rfl
    sad := fun ea mb s => (sadAct_keeps ea mb s).execKeeps (State.skipWhen_overwrites _ _).ge
    jmp := fun ea mb s => (jmpAct_keeps ea mb s).execKeeps le_rfl
    krb := fun s t h => (krbEffect_keeps s t h).execKeeps (by cases h; exact le_rfl)
    tls := fun s t h => (tlsEffect_keeps s t h).execKeeps (mailboxWrite_overwrites h)
    dsp := fun s t h => (dspEffect_keeps s t h).execKeeps (mailboxWrite_overwrites h)
    law := fun k s t h => (lawEffect_keeps k s t h).execKeeps (by rw [lawEffect_done h])
    operate := fun bits s t h => (operateEffect_keeps bits s t h).execKeeps
      (by rw [operateEffect_done h, operate_overwrites]) }

theorem exec_keeps {i : Instr} {s t : State} (h : exec i s = .next t) : ExecKeeps s t :=
  execKeeps_instrFrame.exec h

/-- Settles O41: the decoders' part of what every CPU step keeps. -/
theorem cpuLeavesTheDecodersAlone : Obligations.CpuLeavesTheDecodersAlone := by
  intro i s t h
  have k := exec_keeps h
  exact ⟨k.mode, k.curX, k.curY, k.tcurX, k.tcurY, k.trace, k.params, k.schedule, k.wait⟩

end Sys2Proof.Machine

/-! What every step of the machine keeps, whosever turn it is: the cursors inside the grid, the invariant, and what
only moves one way (spec/10_state.md R27 to R36, spec/43_iot_mailbox.md R190 to R194, spec/44_display.md R223). -/

namespace Sys2Proof.Machine

/-! ### The cursor stays inside the grid -/

/-- The cursor is a cell of the character grid (R35, R36). -/
def CursorInside (p : Params) (cx cy : Nat) : Prop := cx < p.cols ∧ cy < p.rows

theorem nextRow_lt {p : Params} {cy : Nat} (h : cy < p.rows) : nextRow p cy < p.rows :=
  Nat.mod_lt _ (Nat.zero_lt_of_lt h)

theorem CursorInside.nextRow {p : Params} {cx cy : Nat} (h : CursorInside p cx cy) :
    CursorInside p cx (nextRow p cy) := ⟨h.1, nextRow_lt h.2⟩

theorem CursorInside.carriageReturn {p : Params} {cx cy : Nat} (h : CursorInside p cx cy) : CursorInside p 0 cy :=
  ⟨Nat.zero_lt_of_lt h.1, h.2⟩

/-- `advance` wraps at the end of a row and of the grid (R223). -/
theorem CursorInside.advance {p : Params} {cx cy : Nat} (h : CursorInside p cx cy) :
    CursorInside p (advanceX p cx) (advanceY p cx cy) := by
  unfold advanceX advanceY
  split_ifs with hend
  · exact h.nextRow.carriageReturn
  · exact ⟨by omega, h.2⟩

/-- Decoding any groups keeps the cursor inside (R221 to R228). -/
theorem decodeGroups_inside (p : Params) (gs : List Code) {cx cy : Nat} (h : CursorInside p cx cy) :
    CursorInside p (decodeGroups p gs cx cy).cx (decodeGroups p gs cx cy).cy := by
  induction gs generalizing cx cy with
  | nil => exact h
  | cons g rest ih =>
    unfold decodeGroups
    split_ifs
    · exact h
    · exact ih h
    · exact ih h.carriageReturn
    · exact ih h.nextRow
    · exact ih h.advance
    · exact ih h.nextRow
    · exact ih h.advance

/-- The display's decoding writes its mode, its cursor, kept inside the grid, and the end of the trace (R213). -/
theorem decodeDisplay_frame (x : Word) (s : State) : ∃ m cx cy calls,
    decodeDisplay x s = { s with mode := m, curX := cx, curY := cy, trace := s.trace ++ calls ++ [.present] } ∧
      (CursorInside s.params s.curX s.curY → CursorInside s.params cx cy) := by
  unfold decodeDisplay
  cases s.mode <;> dsimp only
  case parameter | point | vector => exact ⟨_, _, _, _, rfl, id⟩
  case character => exact ⟨_, _, _, _, rfl, decodeGroups_inside _ _⟩

/-- The teleprinter's decoding writes its own cursor, kept inside the grid, and the end of the trace (R232). -/
theorem decodeTeleprinter_frame (x : Word) (s : State) : ∃ cx cy calls,
    decodeTeleprinter x s = { s with tcurX := cx, tcurY := cy, trace := s.trace ++ calls ++ [.present] } ∧
      (CursorInside s.params s.tcurX s.tcurY → CursorInside s.params cx cy) :=
  ⟨_, _, _, rfl, decodeGroups_inside _ _⟩

/-! ### The invariant -/

/-- A CPU step keeps the invariant: it leaves the cursors, and a fault it records clears PRUN (R253). -/
theorem ExecKeeps.inv {s t : State} (k : ExecKeeps s t) (h : s.Inv) : t.Inv where
  params := k.params ▸ h.params
  mem := k.mem h.mem
  curX := by rw [k.curX, k.params]; exact h.curX
  curY := by rw [k.curY, k.params]; exact h.curY
  tcurX := by rw [k.tcurX, k.params]; exact h.tcurX
  tcurY := by rw [k.tcurY, k.params]; exact h.tcurY
  faultStops hf := by
    rcases k.fault with ⟨hsame, hp⟩ | hp
    · exact hp.trans (h.faultStops (hsame ▸ hf))
    · exact hp
  noPeripheral hn := by
    rcases k.fault with ⟨-, hp⟩ | hp
    · exact hp.trans (h.noPeripheral (k.params ▸ hn))
    · exact hp

theorem decodeDisplay_inv (x : Word) {s : State} (h : s.Inv) : (decodeDisplay x s).Inv := by
  obtain ⟨m, cx, cy, calls, he, hinside⟩ := decodeDisplay_frame x s
  obtain ⟨hx, hy⟩ := hinside ⟨h.curX, h.curY⟩
  rw [he]
  exact { h with curX := hx, curY := hy }

theorem decodeTeleprinter_inv (x : Word) {s : State} (h : s.Inv) : (decodeTeleprinter x s).Inv := by
  obtain ⟨cx, cy, calls, he, hinside⟩ := decodeTeleprinter_frame x s
  obtain ⟨hx, hy⟩ := hinside ⟨h.tcurX, h.tcurY⟩
  rw [he]
  exact { h with tcurX := hx, tcurY := hy }

theorem consumerTake_inv {s : State} (h : s.Inv) : (consumerTake s).Inv := by
  unfold consumerTake
  split
  · exact h
  · exact decodeDisplay_inv _ { h with }
  · exact decodeTeleprinter_inv _ { h with }

theorem consumerTurn_inv {s : State} (h : s.Inv) : (consumerTurn s).Inv := by
  rcases consumerTurn_cases s with ⟨-, he⟩ | ⟨-, he⟩ <;> rw [he]
  · exact consumerTake_inv h
  · exact h

theorem hostStopCpu_inv {s : State} (h : s.Inv) : (hostStopCpu s).Inv := { h with }

theorem hostStopPeripheral_inv {s : State} (h : s.Inv) : (hostStopPeripheral s).Inv :=
  { h with faultStops := fun _ => rfl, noPeripheral := fun _ => rfl }

theorem takeTurn_inv {turn : Turn} {s t : State} (hs : s.Inv) (h : takeTurn turn s = .next t) : t.Inv := by
  rcases takeTurn_cases h with ⟨-, -, hcpu⟩ | ⟨-, -, rfl⟩ | ⟨-, rfl⟩ | ⟨-, rfl⟩ | ⟨-, rfl⟩
  · exact (exec_keeps hcpu).inv hs
  · exact hs
  · exact consumerTurn_inv hs
  · exact hostStopCpu_inv hs
  · exact hostStopPeripheral_inv hs

/-- The invariant says nothing of the schedule, the counter of free values and the wait. -/
theorem nextTurn_inv {s : State} (h : s.Inv) : (nextTurn s).state.Inv := by
  obtain ⟨sched, n, w, he⟩ := nextTurn_state s
  rw [he]
  exact { h with }

/-- Settles O49: choosing the turn keeps the invariant, and so does every turn. -/
theorem stepKeepsInv : Obligations.StepKeepsInv := by
  intro s t hs h
  obtain ⟨-, hturn⟩ := step_next h
  exact takeTurn_inv (nextTurn_inv hs) hturn

/-! ### What only moves one way -/

/-- RUN and PRUN only fall, CYCLES, OVERWRITES and the trace only grow, and the parameters stay. -/
structure RunOnlyFalls (s t : State) : Prop where
  run : t.run = true → s.run = true
  prun : t.prun = true → s.prun = true
  cycles : s.cycles ≤ t.cycles
  overwrites : s.overwrites ≤ t.overwrites
  trace : s.trace <+: t.trace
  params : t.params = s.params

theorem RunOnlyFalls.refl (s : State) : RunOnlyFalls s s := ⟨id, id, le_rfl, le_rfl, ⟨[], List.append_nil _⟩, rfl⟩

theorem ExecKeeps.runOnlyFalls {s t : State} (k : ExecKeeps s t) : RunOnlyFalls s t where
  run := k.run
  prun hp := by
    rcases k.fault with ⟨-, hsame⟩ | hstop
    · exact hsame ▸ hp
    · simp [hstop] at hp
  cycles := k.cycles
  overwrites := k.overwrites
  trace := by rw [k.trace]
  params := k.params

/-- A take only adds calls at the end of the trace. -/
theorem consumerTake_runOnlyFalls (s : State) : RunOnlyFalls s (consumerTake s) := by
  unfold consumerTake
  split
  · exact .refl s
  · obtain ⟨m, cx, cy, calls, he, -⟩ := decodeDisplay_frame s.mbxDsp { s with mbxDsp := 0 }
    rw [he]
    exact ⟨id, id, le_rfl, le_rfl, ⟨calls ++ [.present], (List.append_assoc _ _ _).symm⟩, rfl⟩
  · obtain ⟨cx, cy, calls, he, -⟩ := decodeTeleprinter_frame s.mbxTty { s with mbxTty := 0 }
    rw [he]
    exact ⟨id, id, le_rfl, le_rfl, ⟨calls ++ [.present], (List.append_assoc _ _ _).symm⟩, rfl⟩

theorem consumerTurn_runOnlyFalls (s : State) : RunOnlyFalls s (consumerTurn s) := by
  rcases consumerTurn_cases s with ⟨-, he⟩ | ⟨-, he⟩ <;> rw [he]
  · exact consumerTake_runOnlyFalls s
  · exact .refl s

theorem takeTurn_runOnlyFalls {turn : Turn} {s t : State} (h : takeTurn turn s = .next t) : RunOnlyFalls s t := by
  rcases takeTurn_cases h with ⟨-, -, hcpu⟩ | ⟨-, -, rfl⟩ | ⟨-, rfl⟩ | ⟨-, rfl⟩ | ⟨-, rfl⟩
  · exact (exec_keeps hcpu).runOnlyFalls
  · exact .refl _
  · exact consumerTurn_runOnlyFalls s
  · exact { RunOnlyFalls.refl s with run := nofun }
  · exact { RunOnlyFalls.refl s with prun := nofun }

theorem step_runOnlyFalls {s t : State} (h : step s = .next t) : RunOnlyFalls s t := by
  obtain ⟨-, hturn⟩ := step_next h
  obtain ⟨sched, n, w, he⟩ := nextTurn_state s
  rw [he] at hturn
  exact { takeTurn_runOnlyFalls hturn with }

/-- Settles O42: the parts of what a step moves one way only. -/
theorem flagsOfTheRunOnlyFall : Obligations.FlagsOfTheRunOnlyFall := by
  intro s t h
  have k := step_runOnlyFalls h
  exact ⟨k.run, k.prun, k.cycles, k.overwrites, k.trace, k.params⟩

/-! ### After a fault -/

theorem launch_fault {c : LaunchChoice} {ins dat : List (Nat × Nat)} {s : State} (h : launch c ins dat = .ok s) :
    s.fault = none := by
  unfold launch at h
  split at h <;> cases h
  rfl

/-- With a fault recorded the CPU has no step (R101). -/
theorem cpuRunning_of_fault {s : State} (h : s.fault ≠ none) : cpuRunning s = false := by
  simp [cpuRunning, Option.isSome_iff_ne_none, h]

theorem consumerReady_of_stopped {s : State} (h : s.prun = false) : consumerReady s = false := by
  simp [consumerReady, h]

theorem consumerTurn_fault (s : State) : (consumerTurn s).fault = s.fault := by
  rcases consumerTurn_cases s with ⟨-, he⟩ | ⟨-, he⟩ <;> rw [he]
  obtain ⟨tty, dsp, m, x, y, tx, ty, calls, ht⟩ := consumerTake_eq s
  rw [ht]

/-- No turn changes a recorded fault: the CPU has none, and no other agent writes FAULT. -/
theorem takeTurn_fault {turn : Turn} {s t : State} (hf : s.fault ≠ none) (h : takeTurn turn s = .next t) :
    t.fault = s.fault := by
  rcases takeTurn_cases h with ⟨-, hrun, -⟩ | ⟨-, -, rfl⟩ | ⟨-, rfl⟩ | ⟨-, rfl⟩ | ⟨-, rfl⟩
  · rw [cpuRunning_of_fault hf] at hrun
    cases hrun
  · rfl
  · exact consumerTurn_fault s
  · rfl
  · rfl

theorem nextTurn_fault (s : State) : (nextTurn s).state.fault = s.fault := by
  obtain ⟨sched, n, w, he⟩ := nextTurn_state s
  rw [he]

theorem step_fault {s t : State} (hf : s.fault ≠ none) (h : step s = .next t) : t.fault = s.fault := by
  obtain ⟨-, hturn⟩ := step_next h
  exact (takeTurn_fault (nextTurn_fault s ▸ hf) hturn).trans (nextTurn_fault s)

/-- After a fault with the peripheral stopped, nothing is left once the schedule is used up (R276). -/
theorem allDone_of_fault {s : State} (hf : s.fault ≠ none) (hp : s.prun = false) (hs : s.schedule = []) :
    allDone s = true := by
  simp [allDone, runEnded, hs, hp, cpuRunning_of_fault hf, consumerReady_of_stopped hp]

/-- Of the turns then only the host's stop of the CPU does anything. -/
theorem takeTurn_of_fault {s : State} (turn : Turn) (hf : s.fault ≠ none) (hp : s.prun = false) :
    takeTurn turn s = .next { s with run := if turn = .hostStopCpu then false else s.run } := by
  cases turn
  case cpu => simp [takeTurn, cpuRunning_of_fault hf]
  case consumer => simp [takeTurn, consumerTurn, consumerReady_of_stopped hp]
  case hostStopCpu => rfl
  case hostStopPeripheral => simp [takeTurn, hostStopPeripheral, ← hp]

/-- Settles O13: launch records no fault, every turn keeps a recorded one, and the invariant has the peripheral
stopped with it. -/
theorem faultRecordIsNeverCleared : Obligations.FaultRecordIsNeverCleared := by
  refine ⟨fun _ _ _ _ => launch_fault, fun _ _ => step_fault, fun s hinv hf => ?_⟩
  have hp : s.prun = false := hinv.faultStops hf
  exact ⟨fun hs => step_allDone (allDone_of_fault hf hp hs),
    fun turn rest hs => (step_scheduled hs).trans (takeTurn_of_fault turn hf hp)⟩

end Sys2Proof.Machine

/-! The memory as the CPU fetches from it and as the loader fills it: a store is seen by the next fetch
(spec/20_memory.md R64, spec/70_reset_and_hazards.md R282), and the load of a dump's pairs (spec/20_memory.md R55,
spec/60_exceptions.md R251, R257). -/

namespace Sys2Proof.Machine

/-! ### A store and the next fetch -/

@[simp] theorem State.addCycles_fetchWord (s : State) (n : Nat) : (s.addCycles n).fetchWord = s.fetchWord := rfl

/-- A word written at PC is the word fetched from there. -/
theorem State.fetchWord_writeWord_pc (s : State) (v : Word) (h : Memory.wf s.mem) :
    (s.writeWord s.pc v).fetchWord = v :=
  s.readWord_writeWord_same s.pc v h

/-- The whole step of DAC: past the fetch and the latches, the accumulator's word at the effective address. -/
theorem exec_dac_eq (ind : Bool) (y : Addr) (s : State) :
    exec (.dac ind y) s =
      .next (((s.fetched.latched ind y).writeWord (effectiveAddress ind y s) s.ac).addCycles
        (s.params.cyc.dac + indirectCost ind)) :=
  memrefStep_eq (·.dac) dacAct ind y s

/-- The CPU's next step is the step of the word it fetches. -/
theorem cpuStep_of_fetchWord {s : State} {w : Word} (h : s.fetchWord = w) :
    cpuStep s = exec (decode s.params w) s :=
  h ▸ rfl

/-- Settles O28: the cell that the direct DAC writes is the one its own fetch has left PC pointing at. -/
theorem storeIsSeenByTheNextFetch : Obligations.StoreIsSeenByTheNextFetch := by
  intro s hwf
  have hexec := exec_dac_eq false (s.pc + 1) s
  have hfetch := (s.fetched.latched false (s.pc + 1)).fetchWord_writeWord_pc s.ac hwf
  exact ⟨_, hexec, hfetch, cpuStep_of_fetchWord hfetch⟩

/-! ### Loading one pair -/

/-- A pair is loaded exactly when its address is inside the memory and its value fits a word. -/
theorem loadPair_eq_ok {m m' : Memory} {q : Nat × Nat} :
    loadPair m q = .ok m' ↔
      (q.1 < memorySize ∧ q.2 < 2 ^ 18) ∧ m' = Memory.write m q.1 (BitVec.ofNat 18 q.2) := by
  unfold loadPair
  split_ifs with haddr hvalue
  · exact iff_of_false nofun fun ⟨⟨ha, _⟩, _⟩ => haddr.not_gt ha
  · exact iff_of_false nofun fun ⟨⟨_, hv⟩, _⟩ => hvalue.not_gt hv
  · have hfits : q.1 < memorySize ∧ q.2 < 2 ^ 18 := ⟨lt_of_not_ge haddr, lt_of_not_ge hvalue⟩
    rw [and_iff_right hfits, Except.ok.injEq, eq_comm]

/-- A pair's error names the number that does not fit (R251). -/
theorem loadPair_error_cases {m : Memory} {q : Nat × Nat} {e : LoadError} (h : loadPair m q = .error e) :
    (e = .loadAddress ∧ memorySize ≤ q.1) ∨ (e = .loadValue ∧ 2 ^ 18 ≤ q.2) := by
  unfold loadPair at h
  split_ifs at h with haddr hvalue
  · cases h
    exact .inl ⟨rfl, haddr⟩
  · cases h
    exact .inr ⟨rfl, hvalue⟩

/-- In a canonical memory a loaded pair changes what its own address reads as, and no other. -/
theorem loadPair_read {m m' : Memory} {q : Nat × Nat} (hwf : Memory.wf m) (h : loadPair m q = .ok m') (a : Nat) :
    Memory.read m' a = if q.1 = a then BitVec.ofNat 18 q.2 else Memory.read m a := by
  obtain ⟨-, rfl⟩ := loadPair_eq_ok.mp h
  split_ifs with ha
  · exact ha ▸ Memory.read_write_same m q.1 _ hwf
  · exact Memory.read_write_other m q.1 a _ (Ne.symm ha)

/-! ### Loading the pairs of a dump -/

theorem loadPairs_cons_eq_ok {m m' : Memory} {q : Nat × Nat} {rest : List (Nat × Nat)} :
    loadPairs m (q :: rest) = .ok m' ↔ ∃ m₁, loadPair m q = .ok m₁ ∧ loadPairs m₁ rest = .ok m' := by
  cases h : loadPair m q <;> simp [loadPairs, h]

/-- A load's error is the error of one of its pairs. -/
theorem loadPairs_eq_error {pairs : List (Nat × Nat)} {m : Memory} {e : LoadError}
    (h : loadPairs m pairs = .error e) : ∃ q ∈ pairs, ∃ m₁, loadPair m₁ q = .error e := by
  induction pairs generalizing m with
  | nil => cases h
  | cons q rest ih =>
    cases hq : loadPair m q with
    | error e' =>
      have he : e' = e := by simpa [loadPairs, hq] using h
      exact ⟨q, List.mem_cons_self, m, he ▸ hq⟩
    | ok m₁ =>
      obtain ⟨r, hr, hbad⟩ := ih (m := m₁) (by simpa [loadPairs, hq] using h)
      exact ⟨r, List.mem_cons_of_mem q hr, hbad⟩

/-- A load succeeds exactly when each of its pairs fits, whatever the memory before it. -/
theorem loadPairs_succeeds_iff (pairs : List (Nat × Nat)) (m : Memory) :
    (∃ m', loadPairs m pairs = .ok m') ↔ ∀ q ∈ pairs, q.1 < memorySize ∧ q.2 < 2 ^ 18 := by
  induction pairs generalizing m with
  | nil => simp [loadPairs]
  | cons q rest ih =>
    rw [List.forall_mem_cons]
    constructor
    · rintro ⟨m', h⟩
      obtain ⟨m₁, hq, hrest⟩ := loadPairs_cons_eq_ok.mp h
      exact ⟨(loadPair_eq_ok.mp hq).1, (ih m₁).mp ⟨m', hrest⟩⟩
    · rintro ⟨hq, hrest⟩
      obtain ⟨m', h⟩ := (ih (Memory.write m q.1 (BitVec.ofNat 18 q.2))).mpr hrest
      exact ⟨m', loadPairs_cons_eq_ok.mpr ⟨_, loadPair_eq_ok.mpr ⟨hq, rfl⟩, h⟩⟩

/-- Settles O45: an error comes from a pair, and the pair's own error says which of its two numbers does not fit. -/
theorem loadFailsExactlyOnBadPairs : Obligations.LoadFailsExactlyOnBadPairs := by
  intro m pairs
  refine ⟨loadPairs_succeeds_iff pairs m, fun h => ?_, fun h => ?_⟩
  · obtain ⟨q, hq, _, hbad⟩ := loadPairs_eq_error h
    exact ⟨q, hq, by simpa [memorySize] using loadPair_error_cases hbad⟩
  · obtain ⟨q, hq, _, hbad⟩ := loadPairs_eq_error h
    exact ⟨q, hq, by simpa using loadPair_error_cases hbad⟩

/-- Settles O46, by induction on the pairs: the first pair decides a cell only when no later pair names it. -/
theorem laterPairWins : Obligations.LaterPairWins := by
  intro m m' pairs a hwf h
  induction pairs generalizing m with
  | nil =>
    cases h
    rfl
  | cons q rest ih =>
    obtain ⟨m₁, hq, hrest⟩ := loadPairs_cons_eq_ok.mp h
    rw [ih m₁ (loadPair_wf hwf hq) hrest, List.reverse_cons, List.find?_append]
    cases rest.reverse.find? (fun r => r.1 == a) with
    | some r => rfl
    | none => by_cases ha : q.1 = a <;> simp [loadPair_read hwf hq, ha]

end Sys2Proof.Machine

/-! The decoder and the encoder: what a word of each operation number decodes to (spec/30_encoding.md R81 to R88),
that decoding and encoding undo each other, and which words are illegal and what executing one leaves
(spec/42_operate.md R151, R164, spec/60_exceptions.md R251 to R254). -/

namespace Sys2Proof

/-! ### Decoding by the operation number -/

/-- R83 splits the operation numbers into four classes: the memory reference instructions, the number no instruction
has, the IOT class and the operate class. -/
theorem opField_class (w : Word) : opField w < 13 ∨ opField w = 13 ∨ opField w = 14 ∨ opField w = 15 := by
  generalize opField w = op
  bv_omega

theorem decode_opcode13 (p : Params) {w : Word} (h : opField w = 13) : decode p w = .opcode13 (restField w) := by
  simp [decode, h]

theorem decode_iot (p : Params) {w : Word} (h : opField w = 14) : decode p w = decodeIot p w := by
  simp [decode, h]

theorem decode_law (p : Params) {w : Word} (h : opField w = 15) (hi : indirectField w = true) :
    decode p w = .law (addressField w) := by
  simp [decode, h, hi]

theorem decode_operate (p : Params) {w : Word} (h : opField w = 15) (hi : indirectField w = false) :
    decode p w = decodeOperate (addressField w) := by
  simp [decode, h, hi]

/-- A word with `OP` below 13 decodes to an instruction of its row, whose word holds the same three fields and which
nothing makes ill-formed or illegal (R81, R83). -/
theorem decode_memref (p : Params) {w : Word} (h : opField w < 13) :
    encode p (decode p w) = memrefWord (opField w) (indirectField w) (addressField w) ∧
      (decode p w).wellFormed p = true ∧ illegalCause p (decode p w) = none := by
  unfold decode
  generalize opField w = op at h ⊢
  have hlt : op.toNat < 13 := h
  obtain ⟨n, rfl⟩ : ∃ n : Fin 13, op = BitVec.ofNat 4 n := ⟨⟨op.toNat, hlt⟩, by simp⟩
  fin_cases n <;> exact ⟨rfl, rfl, rfl⟩

theorem opcode13Word_restField {w : Word} (h : opField w = 13) : opcode13Word (restField w) = w :=
  (congrArg (· ++ restField w) h).symm.trans (opField_append_restField w)

/-! ### The IOT words -/

theorem recognizedIot_iff {p : Params} {w : Word} :
    recognizedIot p w = true ↔ w = p.iotKrb ∨ w = p.iotTls ∨ w = p.iotDsp := by
  simp [recognizedIot, or_assoc]

/-- An IOT word is recognized only as a whole (R85, R180). -/
theorem decodeIot_of_not_recognized {p : Params} {w : Word} (h : recognizedIot p w = false) :
    decodeIot p w = .otherIot (restField w) := by
  obtain ⟨hk, ht, hd⟩ : w ≠ p.iotKrb ∧ w ≠ p.iotTls ∧ w ≠ p.iotDsp := by
    simpa [recognizedIot_iff] using Bool.eq_false_iff.mp h
  simp [decodeIot, hk, ht, hd]

/-- A recognized word decodes to one of the three instructions that own a word. -/
theorem decodeIot_of_recognized {p : Params} {w : Word} (h : recognizedIot p w = true) :
    (decodeIot p w = .krb ∧ w = p.iotKrb) ∨ (decodeIot p w = .tls ∧ w = p.iotTls) ∨
      (decodeIot p w = .dsp ∧ w = p.iotDsp) := by
  unfold decodeIot
  split_ifs with hk ht hd
  · exact .inl ⟨rfl, hk⟩
  · exact .inr (.inl ⟨rfl, ht⟩)
  · exact .inr (.inr ⟨rfl, hd⟩)
  · simp [recognizedIot_iff, hk, ht, hd] at h

theorem otherIotWord_restField {w : Word} (h : opField w = 14) : otherIotWord (restField w) = w :=
  (congrArg (· ++ restField w) h).symm.trans (opField_append_restField w)

theorem encode_decodeIot {p : Params} {w : Word} (h : opField w = 14) : encode p (decodeIot p w) = w := by
  cases hr : recognizedIot p w with
  | false => exact decodeIot_of_not_recognized hr ▸ otherIotWord_restField h
  | true => rcases decodeIot_of_recognized hr with ⟨he, hw⟩ | ⟨he, hw⟩ | ⟨he, hw⟩ <;> rw [he, hw] <;> rfl

theorem decodeIot_wellFormed {p : Params} {w : Word} (h : opField w = 14) :
    (decodeIot p w).wellFormed p = true := by
  cases hr : recognizedIot p w with
  | false => simp [decodeIot_of_not_recognized hr, Instr.wellFormed, otherIotWord_restField h, hr]
  | true => rcases decodeIot_of_recognized hr with ⟨he, -⟩ | ⟨he, -⟩ | ⟨he, -⟩ <;> rw [he] <;> rfl

/-! ### The operate words -/

/-- An operate word that R165 does not name is the row OPR. -/
theorem decodeOperate_of_not_named {bits : BitVec 13} (h : bits ∉ namedOperates) : decodeOperate bits = .opr bits := by
  simp only [namedOperates, List.mem_cons, List.not_mem_nil, or_false, not_or] at h
  simp [decodeOperate, h]

theorem decode_operateWord (p : Params) (bits : BitVec 13) : decode p (operateWord bits) = decodeOperate bits := by
  rw [decode_operate p (opField_operateWord bits) (indirectField_operateWord bits), addressField_operateWord]

/-! ### Decoding and encoding undo each other -/

/-- Settles O1, one row of the table at a time: each class's word has the fields its instruction came from. -/
theorem decodeOfEncodeIsTheInstruction : Obligations.DecodeOfEncodeIsTheInstruction := by
  intro p i hp hi
  obtain ⟨hkrb, htls, hdsp, hkt, hkd, htd, -⟩ := (Params.wf_iff p).mp hp
  cases i with
  | cal | dac | jms | dzm | lac | xor | add | tad | xct | isz | and | sad | jmp => simp [encode, decode]
  | opcode13 rest =>
    exact (decode_opcode13 p (opField_opcode13Word rest)).trans (by rw [restField_opcode13Word])
  | krb => exact (decode_iot p hkrb).trans (by simp [decodeIot])
  | tls => exact (decode_iot p htls).trans (by simp [decodeIot, hkt.symm])
  | dsp => exact (decode_iot p hdsp).trans (by simp [decodeIot, hkd.symm, htd.symm])
  | otherIot rest =>
    have hr : recognizedIot p (otherIotWord rest) = false := by simpa [Instr.wellFormed] using hi
    calc decode p (otherIotWord rest)
      _ = decodeIot p (otherIotWord rest) := decode_iot p (opField_otherIotWord rest)
      _ = .otherIot rest := by rw [decodeIot_of_not_recognized hr, restField_otherIotWord]
  | opr bits =>
    have hb : bits ∉ namedOperates := by simpa [Instr.wellFormed] using hi
    exact (decode_operateWord p bits).trans (decodeOperate_of_not_named hb)
  | law k =>
    exact (decode_law p (opField_lawWord k) (indirectField_lawWord k)).trans (by rw [addressField_lawWord])
  | _ => exact (decode_operateWord p _).trans rfl

/-- R88: no bit of a word is lost in its instruction. -/
theorem encode_decode (p : Params) (w : Word) : encode p (decode p w) = w := by
  have hw := memrefWord_fields w
  rcases opField_class w with h | h | h | h
  · exact (decode_memref p h).1.trans hw
  · exact decode_opcode13 p h ▸ opcode13Word_restField h
  · exact decode_iot p h ▸ encode_decodeIot h
  · cases hi : indirectField w <;> rw [h, hi] at hw
    · rw [decode_operate p h hi, encode_decodeOperate, operateWord_eq, hw]
    · rw [decode_law p h hi, encode, lawWord_eq, hw]

/-- A word's instruction is always one of the row it names (R85, R165). -/
theorem decode_wellFormed (p : Params) (w : Word) : (decode p w).wellFormed p = true := by
  rcases opField_class w with h | h | h | h
  · exact (decode_memref p h).2.1
  · exact decode_opcode13 p h ▸ rfl
  · exact decode_iot p h ▸ decodeIot_wellFormed h
  · cases hi : indirectField w
    · exact decode_operate p h hi ▸ decodeOperate_wellFormed p _
    · exact decode_law p h hi ▸ rfl

/-- Settles O2: both halves hold class by class of operation numbers. -/
theorem encodeOfDecodeIsTheWord : Obligations.EncodeOfDecodeIsTheWord :=
  fun p w => ⟨encode_decode p w, decode_wellFormed p w⟩

/-! ### The illegal words -/

/-- R151 (b) and (c) by the bits. -/
theorem operateLegal_eq_false_iff {bits : BitVec 13} : operateLegal bits = false ↔
    (bits.getLsbD 3 = true ∧ bits.getLsbD 4 = true) ∨
      (bits.getLsbD 10 = true ∧ bits.getLsbD 3 = false ∧ bits.getLsbD 4 = false) := by
  unfold operateLegal
  cases bits.getLsbD 3 <;> cases bits.getLsbD 4 <;> simp

/-- The address field holds the word's low bits in their places (R81), the rotate bits of R151 among them. -/
theorem operateLegal_addressField_iff {w : Word} : operateLegal (addressField w) = false ↔
    (w.getLsbD 3 = true ∧ w.getLsbD 4 = true) ∨
      (w.getLsbD 10 = true ∧ w.getLsbD 3 = false ∧ w.getLsbD 4 = false) := by
  simp [operateLegal_eq_false_iff, addressField]

/-- The rotate bits of every word that R165 names are legal, so its row has no cause. -/
theorem illegalCause_named (p : Params) : ∀ bits ∈ namedOperates, illegalCause p (decodeOperate bits) = none := by
  have hall : namedOperates.all (fun bits => illegalCause p (decodeOperate bits) == none) = true := rfl
  simpa only [List.all_eq_true, beq_iff_eq] using hall

/-- R151 decides every operate word with bit 13 clear, named or not. -/
theorem illegalCause_decodeOperate (p : Params) (bits : BitVec 13) :
    illegalCause p (decodeOperate bits) = if operateLegal bits = false then some .badOperate else none := by
  by_cases hb : bits ∈ namedOperates
  · rw [Machine.namedOperates_legal bits hb]
    exact illegalCause_named p bits hb
  · rw [decodeOperate_of_not_named hb, illegalCause]
    cases operateLegal bits <;> rfl

theorem illegalCause_decodeIot (p : Params) (w : Word) :
    illegalCause p (decodeIot p w) = if recognizedIot p w then none else some .badIot := by
  cases hr : recognizedIot p w with
  | false => rw [decodeIot_of_not_recognized hr]; rfl
  | true => rcases decodeIot_of_recognized hr with ⟨he, -⟩ | ⟨he, -⟩ | ⟨he, -⟩ <;> rw [he] <;> rfl

end Sys2Proof

namespace Sys2Proof.Machine

/-- The step of an instruction without an address whose effect is a trap leaves what R253 says. -/
theorem registerStep_afterFault (cost : CycTable → Nat) (effect : State → Effect) {s : State} {c : FaultCause}
    {w : Word} (h : effect s.fetched = .trap c w) : registerStep cost effect s = .next (s.afterFault c w) :=
  registerStep_trap h

/-- An instruction that an illegal cause belongs to takes that fault, its own word recorded (R253). -/
theorem exec_of_illegalCause {i : Instr} {s : State} {c : FaultCause} (h : illegalCause s.params i = some c) :
    exec i s = .next (s.afterFault c (encode s.params i)) := by
  cases i with
  | opcode13 rest =>
    cases h
    exact registerStep_afterFault (fun _ => 0) (opcode13Effect rest) rfl
  | otherIot rest =>
    cases h
    exact registerStep_afterFault (·.iot) (otherIotEffect rest) rfl
  | opr bits =>
    rw [illegalCause] at h
    split_ifs at h with hl
    cases h
    have htrap := operateEffect_illegal s.fetched (Bool.eq_false_of_not_eq_true hl)
    exact registerStep_afterFault (·.opr) (oprEffect bits) htrap
  | law k =>
    rw [illegalCause] at h
    split_ifs at h with hl
    cases h
    exact registerStep_afterFault (·.opr) (lawEffect k) (if_neg hl)
  | _ => cases h

/-- Settles O4: the cause class by class of operation numbers, and the fault from the instruction's own cause, whose
recorded word is the word decoded (`encode_decode`). -/
theorem illegalWordsAreExactlyThese : Obligations.IllegalWordsAreExactlyThese := by
  intro p w
  refine ⟨?_, fun s c hs hc => ?_⟩
  · change illegalCause p (decode p w) = if opField w = 13 then _ else if opField w = 14 then _ else
      if opField w = 15 then _ else _
    rcases opField_class w with h | h | h | h
    · rw [if_neg (by bv_omega), if_neg (by bv_omega), if_neg (by bv_omega)]
      exact (decode_memref p h).2.2
    · rw [decode_opcode13 p h, if_pos h]
      rfl
    · simp [h, decode_iot p h, illegalCause_decodeIot, recognizedIot_iff]
    · cases hi : indirectField w with
      | false =>
        have hbit : w[13] = false := hi
        rw [decode_operate p h hi, illegalCause_decodeOperate]
        simp [h, hbit, operateLegal_addressField_iff]
      | true =>
        have hbit : w[13] = true := hi
        rw [decode_law p h hi]
        cases hl : p.optLaw <;> simp [h, hbit, illegalCause, hl]
  · subst hs
    simpa only [encode_decode] using exec_of_illegalCause hc

/-- Settles O3: each word is the decoder's own computation. -/
theorem writtenOutWordsDecode : Obligations.WrittenOutWordsDecode :=
  ⟨rfl, rfl, rfl, rfl, rfl, rfl, rfl, rfl, rfl⟩

end Sys2Proof.Machine

/-! The two shapes of an instruction other than XCT, fetched or nested (spec/40_cycle.md R103, R106, R113), and the
three ends of a CPU step (R100, spec/60_exceptions.md R250, R253). -/

namespace Sys2Proof.Machine

/-! ### The latches -/

/-- The state with other latches EA and MB. -/
def State.withLatches (s : State) (ea : Addr) (mb : Word) : State := { s with ea := ea, mb := mb }

@[simp] theorem State.withLatches_params (s : State) (ea : Addr) (mb : Word) :
    (s.withLatches ea mb).params = s.params := rfl

/-- No instruction reads EA or MB (R113): an effect computed with other latches is the same effect, with those
latches in the state it leaves. -/
def IgnoresLatches (effect : State → Effect) : Prop :=
  ∀ (s : State) (ea : Addr) (mb : Word), effect (s.withLatches ea mb) = (effect s).map (·.withLatches ea mb)

/-- The same of what a memory-reference instruction does with its own address and buffer. -/
def ActIgnoresLatches (act : Addr → Word → State → State) : Prop :=
  ∀ a v (s : State) ea mb, act a v (s.withLatches ea mb) = (act a v s).withLatches ea mb

theorem State.skipWhen_withLatches (s : State) (c : Bool) (ea : Addr) (mb : Word) :
    (s.withLatches ea mb).skipWhen c = (s.skipWhen c).withLatches ea mb := by
  cases c <;> rfl

theorem Effect.charge_withLatches (e : Effect) (n : Nat) (ea : Addr) (mb : Word) :
    (e.map (·.withLatches ea mb)).charge n = (e.charge n).map (·.withLatches ea mb) := by
  cases e <;> rfl

theorem iszAct_ignoresLatches : ActIgnoresLatches iszAct :=
  fun a v s => (s.writeWord a (v + 1)).skipWhen_withLatches _

theorem sadAct_ignoresLatches : ActIgnoresLatches sadAct :=
  fun _ v s => s.skipWhen_withLatches (s.ac != v)

theorem memrefEffect_ignoresLatches {act : Addr → Word → State → State} (h : ActIgnoresLatches act)
    (cost : CycTable → Nat) (ind : Bool) (y : Addr) : IgnoresLatches (memrefEffect cost act ind y) := by
  intro s ea mb
  rw [memrefEffect_eq, memrefEffect_eq]
  exact congrArg (fun t : State => Effect.done (t.addCycles _)) (h _ _ s ea mb)

theorem registerEffect_ignoresLatches {effect : State → Effect} (h : IgnoresLatches effect)
    (cost : CycTable → Nat) : IgnoresLatches (registerEffect cost effect) := by
  intro s ea mb
  unfold registerEffect
  rw [h s ea mb]
  exact Effect.charge_withLatches _ _ _ _

theorem mailboxWrite_ignoresLatches (m : Mailbox) (f : State → Word)
    (hf : ∀ (s : State) ea mb, f (s.withLatches ea mb) = f s) : IgnoresLatches fun s => mailboxWrite m (f s) s := by
  intro s ea mb
  have hslot : (s.withLatches ea mb).mailbox m = s.mailbox m := by cases m <;> rfl
  have hput (v : Word) : (s.withLatches ea mb).withMailbox m v = (s.withMailbox m v).withLatches ea mb := by
    cases m <;> rfl
  simp only [hf, mailboxWrite, hslot, hput, State.withLatches_params]
  cases s.params.mailboxPolicy <;> dsimp only <;> split_ifs <;> rfl

theorem operateEffect_ignoresLatches (bits : BitVec 13) : IgnoresLatches (operateEffect bits) := by
  intro s ea mb
  unfold operateEffect
  split_ifs
  · simp only [operate, State.skipWhen_eq]
    rfl
  · rfl

theorem lawEffect_ignoresLatches (k : BitVec 13) : IgnoresLatches (lawEffect k) := by
  intro s ea mb
  cases hl : s.params.optLaw <;>
    simp only [lawEffect, State.withLatches_params, hl, Bool.false_eq_true, if_true, if_false] <;> rfl

/-! ### The two shapes of an instruction -/

/-- A memory-reference instruction other than XCT, as a whole step and nested: its cost, its act and its operand. The
first two fields are the instruction's arms in `exec` and `execWord`. -/
structure IsMemref (i : Instr) (cost : CycTable → Nat) (act : Addr → Word → State → State) (ind : Bool) (y : Addr) :
    Prop where
  exec : ∀ s, exec i s = memrefStep cost act ind y s := by intros; rfl
  nested : ∀ n w s, decode s.params w = i → execWord (n + 1) w s = memrefEffect cost act ind y s := by
    intro n w s h
    rw [execWord, h]
  keeps : ∀ ea mb s, CpuKeeps s (act ea mb s)
  latches : ActIgnoresLatches act

/-- When an effect of `i` does not complete: a full mailbox under Block (R185), or the cause that belongs to `i`
(R252, R254, R255). -/
structure StopsOnlyWhen (i : Instr) (effect : State → Effect) : Prop where
  hold : ∀ {s}, effect s = .hold → s.params.mailboxPolicy = .block ∧
    (i = .tls ∧ s.mbxTty ≠ 0 ∨ i = .dsp ∧ s.mbxDsp ≠ 0)
  trap : ∀ {s c w}, effect s = .trap c w → illegalCause s.params i = some c

/-- An instruction without an effective address, as a whole step and nested: its cost and its effect. The first two
fields are its arms in `exec` and `execWord`. -/
structure IsRegister (i : Instr) (cost : CycTable → Nat) (effect : State → Effect) : Prop where
  exec : ∀ s, exec i s = registerStep cost effect s := by intros; rfl
  nested : ∀ n w s, decode s.params w = i → execWord (n + 1) w s = registerEffect cost effect s := by
    intro n w s h
    rw [execWord, h]
  keeps : KeepsWhenDone effect
  latches : IgnoresLatches effect
  stops : StopsOnlyWhen i effect

theorem operateEffect_stops {i : Instr} {bits : BitVec 13}
    (hi : operateLegal bits = false → ∀ p, illegalCause p i = some .badOperate) :
    StopsOnlyWhen i (operateEffect bits) where
  hold {s} h := by
    cases hl : operateLegal bits
    · cases (operateEffect_illegal s hl).symm.trans h
    · cases (operateEffect_legal s hl).symm.trans h
  trap {s c w} h := by
    cases hl : operateLegal bits
    · cases (operateEffect_illegal s hl).symm.trans h
      exact hi hl _
    · cases (operateEffect_legal s hl).symm.trans h

theorem opcode13Effect_stops (rest : BitVec 14) : StopsOnlyWhen (.opcode13 rest) (opcode13Effect rest) where
  hold h := by cases h
  trap h := by
    cases h
    rfl

theorem otherIotEffect_stops (rest : BitVec 14) : StopsOnlyWhen (.otherIot rest) (otherIotEffect rest) where
  hold h := by cases h
  trap h := by
    cases h
    rfl

theorem lawEffect_stops (k : BitVec 13) : StopsOnlyWhen (.law k) (lawEffect k) where
  hold h := by
    unfold lawEffect at h
    split_ifs at h
  trap h := by
    unfold lawEffect at h
    split_ifs at h with hl
    cases h
    exact if_neg hl

/-- A mailbox write holds only for its own full slot, and only under Block (R185). -/
theorem mailboxWrite_eq_hold {m : Mailbox} {v : Word} {s : State} (h : mailboxWrite m v s = .hold) :
    s.params.mailboxPolicy = .block ∧ s.mailbox m ≠ 0 := by
  rcases mailboxWrite_cases m v s with ⟨-, he⟩ | ⟨hfull, hb, -⟩ | ⟨-, -, he⟩
  · cases he.symm.trans h
  · exact ⟨hb, hfull⟩
  · cases he.symm.trans h

theorem mailboxWrite_ne_trap {m : Mailbox} {v : Word} {s : State} {c : FaultCause} {w : Word} :
    mailboxWrite m v s ≠ .trap c w := by
  intro h
  rcases mailboxWrite_cases m v s with ⟨-, he⟩ | ⟨-, -, he⟩ | ⟨-, -, he⟩ <;> cases he.symm.trans h

theorem tlsEffect_stops : StopsOnlyWhen .tls tlsEffect where
  hold h := by
    obtain ⟨hb, hfull⟩ := mailboxWrite_eq_hold h
    exact ⟨hb, .inl ⟨rfl, hfull⟩⟩
  trap h := absurd h mailboxWrite_ne_trap

theorem dspEffect_stops : StopsOnlyWhen .dsp dspEffect where
  hold h := by
    obtain ⟨hb, hfull⟩ := mailboxWrite_eq_hold h
    exact ⟨hb, .inr ⟨rfl, hfull⟩⟩
  trap h := absurd h mailboxWrite_ne_trap

/-- An operate word, named or not, has the operate effect of its bits (R152, R165). -/
theorem operate_isRegister {i : Instr} (bits : BitVec 13)
    (hexec : ∀ s, exec i s = registerStep (·.opr) (operateEffect bits) s)
    (hnested : ∀ n w s, decode s.params w = i → execWord (n + 1) w s = registerEffect (·.opr) (operateEffect bits) s)
    (hillegal : operateLegal bits = false → ∀ p, illegalCause p i = some .badOperate) :
    IsRegister i (·.opr) (operateEffect bits) :=
  ⟨hexec, hnested, operateEffect_keeps bits, operateEffect_ignoresLatches bits, operateEffect_stops hillegal⟩

/-- What an instruction is: of one of the two shapes, or an XCT. -/
inductive InstrShape (i : Instr) : Prop
  | memref {cost act ind y} (h : IsMemref i cost act ind y)
  | register {cost effect} (h : IsRegister i cost effect)
  | xct {ind y} (h : i = .xct ind y)

theorem instr_shape (i : Instr) : InstrShape i := by
  cases i
  case xct => exact .xct rfl
  case cal => exact .memref { keeps := calAct_keeps, latches := fun _ _ _ _ _ => rfl }
  case dac => exact .memref { keeps := dacAct_keeps, latches := fun _ _ _ _ _ => rfl }
  case jms => exact .memref { keeps := jmsAct_keeps, latches := fun _ _ _ _ _ => rfl }
  case dzm => exact .memref { keeps := dzmAct_keeps, latches := fun _ _ _ _ _ => rfl }
  case lac => exact .memref { keeps := lacAct_keeps, latches := fun _ _ _ _ _ => rfl }
  case xor => exact .memref { keeps := xorAct_keeps, latches := fun _ _ _ _ _ => rfl }
  case add => exact .memref { keeps := addAct_keeps, latches := fun _ _ _ _ _ => rfl }
  case tad => exact .memref { keeps := tadAct_keeps, latches := fun _ _ _ _ _ => rfl }
  case and => exact .memref { keeps := andAct_keeps, latches := fun _ _ _ _ _ => rfl }
  case jmp => exact .memref { keeps := jmpAct_keeps, latches := fun _ _ _ _ _ => rfl }
  case isz => exact .memref { keeps := iszAct_keeps, latches := iszAct_ignoresLatches }
  case sad => exact .memref { keeps := sadAct_keeps, latches := sadAct_ignoresLatches }
  case opcode13 rest =>
    exact .register { keeps := opcode13Effect_keeps rest, stops := opcode13Effect_stops rest,
                      latches := fun _ _ _ => rfl }
  case otherIot rest =>
    exact .register { keeps := otherIotEffect_keeps rest, stops := otherIotEffect_stops rest,
                      latches := fun _ _ _ => rfl }
  case krb => exact .register { keeps := krbEffect_keeps, latches := fun _ _ _ => rfl, stops := ⟨nofun, nofun⟩ }
  case tls =>
    exact .register { keeps := tlsEffect_keeps, stops := tlsEffect_stops,
                      latches := mailboxWrite_ignoresLatches .tty (fun s => tlsWord s.ac) fun _ _ _ => rfl }
  case dsp =>
    exact .register { keeps := dspEffect_keeps, stops := dspEffect_stops,
                      latches := mailboxWrite_ignoresLatches .dsp (fun s => s.ac) fun _ _ _ => rfl }
  case law k =>
    exact .register { keeps := lawEffect_keeps k, latches := lawEffect_ignoresLatches k, stops := lawEffect_stops k }
  case opr bits =>
    exact .register (operate_isRegister bits (fun _ => rfl) (fun _ _ _ h => by rw [execWord, h]; rfl)
      fun hl _ => if_neg (Bool.eq_false_iff.mp hl))
  all_goals
    exact .register (operate_isRegister _ (fun _ => rfl) (fun _ _ _ h => by rw [execWord, h]; rfl)
      fun hl => absurd hl (by decide))

/-! ### Nested words (R103, R110) -/

theorem Effect.map_eq_hold {e : Effect} {f : State → State} : e.map f = .hold ↔ e = .hold := by
  cases e <;> simp

theorem Effect.charge_zero (e : Effect) : e.charge 0 = e := by
  cases e <;> rfl

theorem Effect.charge_charge (e : Effect) (m n : Nat) : (e.charge m).charge n = e.charge (m + n) := by
  cases e with
  | done s => exact congrArg (fun k => Effect.done { s with cycles := k }) (Nat.add_assoc _ _ _)
  | hold => rfl
  | trap c w => rfl

theorem memrefEffect_ne_hold {cost : CycTable → Nat} {act : Addr → Word → State → State} {ind : Bool} {y : Addr}
    {s : State} : memrefEffect cost act ind y s ≠ .hold := nofun

theorem execWord_xct {fuel : Nat} {w : Word} {s : State} {ind : Bool} {y : Addr}
    (h : decode s.params w = .xct ind y) :
    execWord (fuel + 1) w s =
      (execWord fuel (memoryBuffer ind y s) s).charge (s.params.cyc.xct + indirectCost ind) := by
  rw [execWord, h]

theorem execWord_ignoresLatches (fuel : Nat) (w : Word) : IgnoresLatches (execWord fuel w) := by
  induction fuel generalizing w with
  | zero => exact fun _ _ _ => rfl
  | succ fuel ih =>
    intro s ea mb
    cases instr_shape (decode s.params w) with
    | memref h =>
      rw [h.nested fuel w s rfl, h.nested fuel w (s.withLatches ea mb) rfl]
      exact memrefEffect_ignoresLatches h.latches _ _ _ s ea mb
    | register h =>
      rw [h.nested fuel w s rfl, h.nested fuel w (s.withLatches ea mb) rfl]
      exact registerEffect_ignoresLatches h.latches _ s ea mb
    | xct hd =>
      rw [execWord_xct hd, execWord_xct (s := s.withLatches ea mb) hd]
      exact (congrArg (Effect.charge _) (ih _ s ea mb)).trans (Effect.charge_withLatches _ _ ea mb)

/-- A step can hold: some mailbox is full under Block (R185). -/
def MailboxBlocks (s : State) : Prop := s.params.mailboxPolicy = .block ∧ (s.mbxTty ≠ 0 ∨ s.mbxDsp ≠ 0)

theorem StopsOnlyWhen.mailboxBlocks {i : Instr} {effect : State → Effect} (h : StopsOnlyWhen i effect) {s : State}
    (hhold : effect s = .hold) : MailboxBlocks s := by
  obtain ⟨hb, ⟨-, hfull⟩ | ⟨-, hfull⟩⟩ := h.hold hhold
  · exact ⟨hb, .inl hfull⟩
  · exact ⟨hb, .inr hfull⟩

theorem execWord_eq_hold {fuel : Nat} {w : Word} {s : State} (hhold : execWord fuel w s = .hold) : MailboxBlocks s := by
  induction fuel generalizing w with
  | zero => cases hhold
  | succ fuel ih =>
    cases instr_shape (decode s.params w) with
    | memref h => exact absurd ((h.nested fuel w s rfl).symm.trans hhold) memrefEffect_ne_hold
    | register h => exact h.stops.mailboxBlocks (Effect.charge_eq_hold.mp ((h.nested fuel w s rfl).symm.trans hhold))
    | xct hd => exact ih (Effect.charge_eq_hold.mp ((execWord_xct hd).symm.trans hhold))

/-! ### The three ends of a step (R100) -/

/-- A held step, a completed one, or a recorded fault. -/
def EndsInOneOfThree (s : State) (o : Host.Outcome State Fault Refusal) : Prop :=
  (o = .next s ∧ MailboxBlocks s) ∨
    (∃ t, o = .next t ∧ t.ir = s.fetchWord ∧ t.fault = s.fault ∧ t.prun = s.prun ∧ s.cycles ≤ t.cycles) ∨
    ∃ c w ea mb, o = .next { s.afterFault c w with ea := ea, mb := mb }

/-- Whatever its latches, a step whose effect keeps what no instruction changes ends in one of the three. -/
theorem finishStep_ends {s : State} {e : Effect} (ea : Addr) (mb : Word)
    (hdone : ∀ t, e = .done t → CpuKeeps s.fetched t) (hhold : e = .hold → MailboxBlocks s) :
    EndsInOneOfThree s (finishStep s (s.fetched.withLatches ea mb) e) := by
  cases e with
  | done t =>
    have k := hdone t rfl
    exact .inr (.inl ⟨t, rfl, k.ir, k.fault, k.prun, k.cycles⟩)
  | hold => exact .inl ⟨rfl, hhold rfl⟩
  | trap c w => exact .inr (.inr ⟨c, w, ea, mb, rfl⟩)

theorem memrefStep_ends {i : Instr} {cost : CycTable → Nat} {act : Addr → Word → State → State} {ind : Bool} {y : Addr}
    (h : IsMemref i cost act ind y) (s : State) : EndsInOneOfThree s (memrefStep cost act ind y s) :=
  finishStep_ends (effectiveAddress ind y s) (memoryBuffer ind y s)
    (fun _ hd => (CpuKeeps.latched s.fetched ind y).trans (memrefEffect_keeps h.keeps hd))
    (fun hh => absurd hh memrefEffect_ne_hold)

theorem registerStep_ends {i : Instr} {cost : CycTable → Nat} {effect : State → Effect}
    (h : IsRegister i cost effect) (s : State) : EndsInOneOfThree s (registerStep cost effect s) := by
  refine finishStep_ends s.ea s.mb (fun t hd => ?_) (fun hh => ?_)
  · obtain ⟨u, hu, rfl⟩ := Effect.map_eq_done.mp hd
    exact (registerEffect_keeps h.keeps _ u hu).trans (CpuKeeps.drawLatches u)
  · exact h.stops.mailboxBlocks (s := s.fetched) (Effect.charge_eq_hold.mp (Effect.map_eq_hold.mp hh))

theorem execXct_ends (ind : Bool) (y : Addr) (s : State) : EndsInOneOfThree s (execXct ind y s) := by
  refine finishStep_ends (effectiveAddress ind y s) (memoryBuffer ind y s) (fun t hd => ?_) (fun hh => ?_)
  · obtain ⟨u, hu, rfl⟩ := Effect.charge_eq_done.mp hd
    exact (CpuKeeps.latched s.fetched ind y).trans ((execWord_keeps _ _ _ u hu).trans (CpuKeeps.addCycles u _))
  · exact execWord_eq_hold (s := s.fetched.latched ind y) (Effect.charge_eq_hold.mp hh)

/-- Settles O14: both shapes and XCT end a step with an effect, and an effect ends it in one of the three. -/
theorem noInstructionStopsTheMachine : Obligations.NoInstructionStopsTheMachine := by
  intro i s
  change EndsInOneOfThree s (exec i s)
  cases instr_shape i with
  | memref h => exact h.exec s ▸ memrefStep_ends h s
  | register h => exact h.exec s ▸ registerStep_ends h s
  | xct h => exact h ▸ execXct_ends _ _ s

end Sys2Proof.Machine

/-! XCT against the instruction that its chain ends in, fetched at the same PC (spec/40_cycle.md R109, R110, R113,
spec/41_memref.md R130, spec/60_exceptions.md R256). -/

namespace Sys2Proof.Machine

/-! ### A chain of XCTs -/

theorem decode_of_opField_xct (p : Params) {w : Word} (h8 : opField w = 8) :
    decode p w = .xct (indirectField w) (addressField w) := by
  simp [decode, h8]

/-- No other operation number decodes to XCT (R83). -/
theorem opField_of_decode_xct {p : Params} {w : Word} {ind : Bool} {y : Addr} (h : decode p w = .xct ind y) :
    opField w = 8 := by
  have hw : memrefWord 8 ind y = w := (congrArg (encode p) h).symm.trans (encode_decode p w)
  exact hw ▸ opField_memrefWord 8 ind y

/-- A word that is no XCT executes the same at every depth within the limit. -/
theorem execWord_fuel {w : Word} (h8 : opField w ≠ 8) (n : Nat) (s : State) :
    execWord (n + 1) w s = execWord 1 w s := by
  cases instr_shape (decode s.params w) with
  | memref h => exact (h.nested n w s rfl).trans (h.nested 0 w s rfl).symm
  | register h => exact (h.nested n w s rfl).trans (h.nested 0 w s rfl).symm
  | xct hd => exact absurd (opField_of_decode_xct hd) h8

/-- A chain is read from the memory, and its costs from the parameters. -/
theorem chain_congr {s t : State} (hm : t.mem = s.mem) (hp : t.params = s.params) (n : Nat) (w : Word) :
    chainEnd n w t = chainEnd n w s ∧ chainWord n w t = chainWord n w s ∧ chainCost n w t = chainCost n w s := by
  have hb (ind : Bool) (y : Addr) : memoryBuffer ind y t = memoryBuffer ind y s := by
    simp only [memoryBuffer, effectiveAddress, State.readWord, hm]
  induction n generalizing w with
  | zero => exact ⟨rfl, rfl, rfl⟩
  | succ n ih =>
    obtain ⟨hend, hword, hcost⟩ := ih (memoryBuffer (indirectField w) (addressField w) s)
    simp only [chainEnd, chainWord, chainCost, hb, hp, hend, hword, hcost, and_self]

/-- A chain that ends executes its last word, for the cost of its XCTs besides (R109). -/
theorem execWord_chain {n : Nat} {w : Word} {s : State} {j : Instr} (h : chainEnd n w s = some j) :
    decode s.params (chainWord n w s) = j ∧ opField (chainWord n w s) ≠ 8 ∧
      execWord n w s = (execWord 1 (chainWord n w s) s).charge (chainCost n w s) := by
  induction n generalizing w with
  | zero => cases h
  | succ n ih =>
    unfold chainEnd at h
    unfold chainWord chainCost
    split_ifs at h ⊢ with h8
    · obtain ⟨hd, hne, he⟩ := ih h
      refine ⟨hd, hne, ?_⟩
      rw [execWord_xct (decode_of_opField_xct s.params h8), he, Effect.charge_charge, Nat.add_comm]
    · exact ⟨Option.some.inj h, h8, (execWord_fuel h8 n s).trans (Effect.charge_zero _).symm⟩

/-! ### A word that is no XCT, fetched -/

/-- When such a word does not complete: its own mailbox is full under Block, or it is illegal. -/
theorem execWord_stops {w : Word} (h8 : opField w ≠ 8) (s : State) :
    (execWord 1 w s = .hold → s.params.mailboxPolicy = .block ∧
      (decode s.params w = .tls ∧ s.mbxTty ≠ 0 ∨ decode s.params w = .dsp ∧ s.mbxDsp ≠ 0)) ∧
    ∀ c v, execWord 1 w s = .trap c v → illegalCause s.params (decode s.params w) = some c := by
  cases instr_shape (decode s.params w) with
  | memref h =>
    rw [h.nested 0 w s rfl]
    exact ⟨nofun, nofun⟩
  | register h =>
    rw [h.nested 0 w s rfl]
    exact ⟨fun he => h.stops.hold (Effect.charge_eq_hold.mp he),
      fun _ _ he => h.stops.trap (Effect.charge_eq_trap.mp he)⟩
  | xct hd => exact absurd (opField_of_decode_xct hd) h8

/-- The update writes nothing but EA, MB and the count of free values. -/
def WritesOnlyLatches (g : State → State) : Prop :=
  ∀ u : State, ∃ ea mb d, g u = { u with ea := ea, mb := mb, draws := d }

/-- Its whole step is its nested effect on the fetched state, with other latches: those of its own operand, or drawn
ones (R106, R113). -/
theorem exec_eq_execWord {w : Word} (h8 : opField w ≠ 8) (s : State) :
    ∃ ea mb g, WritesOnlyLatches g ∧ exec (decode s.params w) s =
      finishStep s (s.fetched.withLatches ea mb) ((execWord 1 w s.fetched).map g) := by
  cases instr_shape (decode s.params w) with
  | @memref _ _ ind y h =>
    refine ⟨effectiveAddress ind y s, memoryBuffer ind y s,
      (·.withLatches (effectiveAddress ind y s) (memoryBuffer ind y s)), fun u => ⟨_, _, u.draws, rfl⟩, ?_⟩
    rw [h.exec, h.nested 0 w s.fetched rfl, ← memrefEffect_ignoresLatches h.latches]
    rfl
  | register h =>
    refine ⟨s.ea, s.mb, State.drawLatches, fun u => ⟨_, _, _, rfl⟩, ?_⟩
    rw [h.exec, h.nested 0 w s.fetched rfl]
    rfl
  | xct hd => exact absurd (opField_of_decode_xct hd) h8

/-! ### XCT against the end of its chain -/

/-- The word that an XCT's chain ends in. -/
def xctWord (ind : Bool) (y : Addr) (s : State) : Word :=
  chainWord (s.params.xctMaxDepth - 1) (memoryBuffer ind y s) s

/-- What the XCTs of the chain cost, the outermost included (R109). -/
def xctCost (ind : Bool) (y : Addr) (s : State) : Nat :=
  chainCost (s.params.xctMaxDepth - 1) (memoryBuffer ind y s) s + (s.params.cyc.xct + indirectCost ind)

theorem xctWord_of_chainEnd {ind : Bool} {y : Addr} {s : State} {j : Instr}
    (h : chainEnd (s.params.xctMaxDepth - 1) (memoryBuffer ind y s) s = some j) :
    decode s.params (xctWord ind y s) = j ∧ opField (xctWord ind y s) ≠ 8 := by
  obtain ⟨hd, h8, -⟩ := execWord_chain h
  exact ⟨hd, h8⟩

theorem exec_xct_of_chainEnd {ind : Bool} {y : Addr} {s : State} {j : Instr}
    (h : chainEnd (s.params.xctMaxDepth - 1) (memoryBuffer ind y s) s = some j) :
    exec (.xct ind y) s = finishStep s (s.fetched.latched ind y)
      (((execWord 1 (xctWord ind y s) s.fetched).map
        (·.withLatches (effectiveAddress ind y s) (memoryBuffer ind y s))).charge (xctCost ind y s)) := by
  obtain ⟨hend, hword, hcost⟩ := chain_congr (s := s) (t := s.fetched.latched ind y) rfl rfl
    (s.params.xctMaxDepth - 1) (memoryBuffer ind y s)
  obtain ⟨-, -, hchain⟩ := execWord_chain (hend.trans h)
  have hlatch := execWord_ignoresLatches 1 (xctWord ind y s) s.fetched (effectiveAddress ind y s) (memoryBuffer ind y s)
  calc exec (.xct ind y) s
    _ = finishStep s (s.fetched.latched ind y) ((execWord (s.params.xctMaxDepth - 1) (memoryBuffer ind y s)
          (s.fetched.latched ind y)).charge (s.params.cyc.xct + indirectCost ind)) := rfl
    _ = _ := by
      rw [hchain, hword, hcost, Effect.charge_charge]
      exact congrArg (fun e => finishStep s _ (Effect.charge _ e)) hlatch

theorem exec_xct_of_chain_too_long {ind : Bool} {y : Addr} {s : State}
    (h : chainEnd (s.params.xctMaxDepth - 1) (memoryBuffer ind y s) s = none) :
    exec (.xct ind y) s = .next { s.afterFault .xctDepth (xctWord ind y s) with
      ea := effectiveAddress ind y s, mb := memoryBuffer ind y s } := by
  obtain ⟨hend, hword, -⟩ := chain_congr (s := s) (t := s.fetched.latched ind y) rfl rfl
    (s.params.xctMaxDepth - 1) (memoryBuffer ind y s)
  have htrap := (execWord_chain_too_long (hend.trans h)).trans (congrArg (Effect.trap .xctDepth) hword)
  exact congrArg (fun e => finishStep s (s.fetched.latched ind y)
    (Effect.charge (s.params.cyc.xct + indirectCost ind) e)) htrap

/-- Settles O23: the end of the chain comes to one effect on the fetched state, and both steps are that effect's
end, but for the latches and the cost. -/
theorem xctActsAsItsTargetFetchedDirectly : Obligations.XctActsAsItsTargetFetchedDirectly := by
  intro ind y s
  cases hc : chainEnd (s.params.xctMaxDepth - 1) (memoryBuffer ind y s) s with
  | none => exact exec_xct_of_chain_too_long hc
  | some j =>
    obtain ⟨rfl, h8⟩ := xctWord_of_chainEnd hc
    obtain ⟨ea, mb, g, hg, hdirect⟩ := exec_eq_execWord h8 s
    have hxct := exec_xct_of_chainEnd hc
    cases he : execWord 1 (xctWord ind y s) s.fetched <;> rw [he] at hdirect hxct
    case done u =>
      obtain ⟨ea', mb', d, hu⟩ := hg u
      refine ⟨_, _, hdirect, hxct, ?_⟩
      rw [hu]
      rfl
    case hold => exact ⟨s, s, hdirect, hxct, rfl⟩
    case trap c v => exact ⟨_, _, hdirect, hxct, rfl⟩

/-- Settles O24: that effect is neither a hold nor a fault, so both steps complete, and the chain's cost is what the
XCT's step adds. -/
theorem xctKeepsItsLatchesAndAddsItsCost : Obligations.XctKeepsItsLatchesAndAddsItsCost := by
  intro ind y s j hc hlegal hfree
  obtain ⟨rfl, h8⟩ := xctWord_of_chainEnd hc
  obtain ⟨ea, mb, g, hg, hdirect⟩ := exec_eq_execWord h8 s
  obtain ⟨hhold, htrap⟩ := execWord_stops h8 s.fetched
  have hxct := exec_xct_of_chainEnd hc
  cases he : execWord 1 (xctWord ind y s) s.fetched <;> rw [he] at hdirect hxct
  case done u =>
    obtain ⟨ea', mb', d, hu⟩ := hg u
    refine ⟨_, _, hdirect, hxct, (execWord_keeps _ _ _ u he).ir, rfl, rfl, ?_⟩
    rw [hu]
    exact (Nat.add_assoc _ _ _).symm.trans (Nat.add_assoc _ _ _).symm
  case hold =>
    obtain ⟨hb, ⟨hj, hfull⟩ | ⟨hj, hfull⟩⟩ := hhold he
    · exact absurd ((hfree hb).1 hj) hfull
    · exact absurd ((hfree hb).2 hj) hfull
  case trap c v => cases hlegal.symm.trans (htrap c v he)

end Sys2Proof.Machine

/-! The turns of a running CPU, of a CPU that has no step, and of the host (spec/40_cycle.md R100, R101, R111, R112,
spec/43_iot_mailbox.md R191 to R194, spec/70_reset_and_hazards.md R275, R276), and the effective address
(spec/40_cycle.md R104, R105). -/

namespace Sys2Proof.Machine

/-! ### Whose turn a step is -/

theorem cpuRunning_eq_false_iff {s : State} : cpuRunning s = false ↔ s.run = false ∨ s.fault ≠ none := by
  cases hr : s.run <;> simp [cpuRunning, hr, Option.isSome_iff_ne_none]

theorem cpuRunning_eq_true_iff {s : State} : cpuRunning s = true ↔ s.run = true ∧ s.fault = none := by
  simp [cpuRunning]

/-- With no turn fixed, the step is the free turn's while an agent may step or PRUN is 1 (R276). -/
theorem step_free {s : State} (hs : s.schedule = [])
    (h : cpuRunning s = true ∨ consumerReady s = true ∨ s.prun = true) :
    step s = takeTurn (freeTurn s).turn (freeTurn s).state := by
  have hd : allDone s = false := by
    rcases h with h | h | h <;> simp [allDone, runEnded, h]
  rw [step_turn hd, nextTurn_free hs]

theorem freeTurn_consumer {s : State} (hr : consumerReady s = true) (he : cpuEnabled s = false) :
    freeTurn s = { turn := .consumer, state := s.withoutWait } := by
  simp [freeTurn, hr, he]

theorem freeTurn_chosen {s : State} (hr : consumerReady s = true) (he : cpuEnabled s = true) :
    freeTurn s = { turn := if waitLeft s = 0 then .consumer else .cpu, state := s.afterWait } := by
  simp [freeTurn, hr, he]

theorem freeTurn_cpu {s : State} (hr : consumerReady s = false) (hc : cpuRunning s = true) :
    freeTurn s = { turn := .cpu, state := s.withoutWait } := by
  simp [freeTurn, hr, hc]

theorem freeTurn_host {s : State} (hr : consumerReady s = false) (hc : cpuRunning s = false) :
    freeTurn s = { turn := .hostStopPeripheral, state := s.withoutWait } := by
  simp [freeTurn, hr, hc]

theorem takeTurn_cpu {s : State} (hc : cpuRunning s = true) : takeTurn .cpu s = cpuStep s := if_pos hc

theorem takeTurn_consumer {s : State} (hr : consumerReady s = true) : takeTurn .consumer s = .next (consumerTake s) :=
  congrArg Host.Outcome.next (if_pos hr)

/-- While both agents may step and the wait is not over, the step is the CPU's. -/
theorem step_before_wait_ends {s : State} {n : Nat} (hs : s.schedule = []) (hr : consumerReady s = true)
    (hc : cpuRunning s = true) (hh : cpuHolds s = false) (hn : waitLeft s = n + 1) :
    step s = cpuStep { s with wait := some n, draws := s.afterWait.draws } := by
  have hstate : s.afterWait = { s with wait := some n, draws := s.afterWait.draws } := by simp [State.afterWait, hn]
  rw [step_free hs (.inl hc), freeTurn_chosen hr (by simp [cpuEnabled, hc, hh]), if_neg (by omega), ← hstate]
  exact takeTurn_cpu (s := s.afterWait) hc

/-- Once it is over, the consumer's. -/
theorem step_after_wait {s : State} (hs : s.schedule = []) (hr : consumerReady s = true)
    (hc : cpuRunning s = true) (hh : cpuHolds s = false) (hw : waitLeft s = 0) :
    step s = .next (consumerTake { s with wait := none, draws := s.afterWait.draws }) := by
  have hstate : s.afterWait = { s with wait := none, draws := s.afterWait.draws } := by simp [State.afterWait, hw]
  rw [step_free hs (.inl hc), freeTurn_chosen hr (by simp [cpuEnabled, hc, hh]), if_pos hw, ← hstate]
  exact takeTurn_consumer (s := s.afterWait) hr

/-- Settles O8: whose turn it is, case by case, and no choice of a turn changes the word at PC. -/
theorem stepRunsTheDecodedInstruction : Obligations.StepRunsTheDecodedInstruction := by
  rintro s i rfl hrun hfault
  have hc : cpuRunning s = true := cpuRunning_eq_true_iff.mpr ⟨hrun, hfault⟩
  refine ⟨fun rest hs => ?_, fun hs hr => ?_, fun hs hr hh => ?_, fun hs hr hh => ?_⟩
  · exact (step_scheduled hs).trans (takeTurn_cpu hc)
  · rw [step_free hs (.inl hc), freeTurn_cpu hr hc]
    exact takeTurn_cpu (s := s.withoutWait) hc
  · rw [step_free hs (.inl hc), freeTurn_consumer hr (by simp [cpuEnabled, hh])]
    exact takeTurn_consumer (s := s.withoutWait) hr
  · intro drawn
    have hdrawn : drawn = s.afterWait.draws := by
      simp only [State.afterWait_draws, drawn]
      cases s.wait <;> rfl
    rw [hdrawn]
    split
    next hw => exact step_after_wait hs hr hc hh hw
    next n hn => exact step_before_wait_ends hs hr hc hh hn

/-- Settles O10: a fixed stop is taken as it is, and of the free turns a CPU that does not run leaves only the
consumer's and the standard host's. -/
theorem hostStopsClearOnlyTheirFlag : Obligations.HostStopsClearOnlyTheirFlag := by
  intro s
  refine ⟨fun rest hs => step_scheduled hs, fun rest hs => step_scheduled hs, fun hs hstop => ?_⟩
  have hc : cpuRunning s = false := cpuRunning_eq_false_iff.mpr hstop
  refine ⟨fun hr => ?_, fun hr hp => ?_⟩
  · rw [step_free hs (.inr (.inl hr)), freeTurn_consumer hr (by simp [cpuEnabled, hc])]
    exact takeTurn_consumer (s := s.withoutWait) hr
  · rw [step_free hs (.inr (.inr hp)), freeTurn_host hr hc]
    rfl

/-! ### A CPU that has no step -/

/-- The memory, every CPU register, FAULT and OVERWRITES are the same, and RUN is not set again. -/
structure CpuUntouched (s t : State) : Prop where
  mem : t.mem = s.mem
  ac : t.ac = s.ac
  link : t.link = s.link
  pc : t.pc = s.pc
  ir : t.ir = s.ir
  ea : t.ea = s.ea
  mb : t.mb = s.mb
  cycles : t.cycles = s.cycles
  fault : t.fault = s.fault
  overwrites : t.overwrites = s.overwrites
  run : s.run = false → t.run = false

theorem CpuUntouched.refl (s : State) : CpuUntouched s s := ⟨rfl, rfl, rfl, rfl, rfl, rfl, rfl, rfl, rfl, rfl, id⟩

/-- The consumer writes nothing of the CPU (R190). -/
theorem consumerTurn_cpuUntouched (s : State) : CpuUntouched s (consumerTurn s) := by
  rcases consumerTurn_cases s with ⟨-, he⟩ | ⟨-, he⟩ <;> rw [he]
  · obtain ⟨tty, dsp, m, x, y, tx, ty, calls, ht⟩ := consumerTake_eq s
    rw [ht]
    exact { CpuUntouched.refl s with }
  · exact .refl s

/-- While the CPU does not run, no turn touches it: its own is no step, and the host's stops clear RUN and PRUN. -/
theorem takeTurn_cpuUntouched {turn : Turn} {s t : State} (hc : cpuRunning s = false) (h : takeTurn turn s = .next t) :
    CpuUntouched s t := by
  rcases takeTurn_cases h with ⟨-, hrun, -⟩ | ⟨-, -, rfl⟩ | ⟨-, rfl⟩ | ⟨-, rfl⟩ | ⟨-, rfl⟩
  · cases hc.symm.trans hrun
  · exact .refl _
  · exact consumerTurn_cpuUntouched s
  · exact { CpuUntouched.refl s with run := fun _ => rfl }
  · exact { CpuUntouched.refl s with }

theorem step_cpuUntouched {s t : State} (hc : cpuRunning s = false) (h : step s = .next t) : CpuUntouched s t := by
  obtain ⟨-, hturn⟩ := step_next h
  obtain ⟨sched, n, w, he⟩ := nextTurn_state s
  rw [he] at hturn
  exact { takeTurn_cpuUntouched (s := { s with schedule := sched, draws := n, wait := w }) hc hturn with }

/-- Settles O12: a step that leaves RUN and FAULT so leaves the CPU without a step. -/
theorem haltedCpuStaysAsItIs : Obligations.HaltedCpuStaysAsItIs := by
  intro s t hstop h
  have k := step_cpuUntouched (cpuRunning_eq_false_iff.mpr hstop) h
  exact ⟨k.mem, k.ac, k.link, k.pc, k.ir, k.ea, k.mb, k.cycles, k.fault, k.overwrites,
    hstop.imp k.run fun hf => k.fault ▸ hf⟩

/-! ### The effective address -/

/-- `mask13` is the word modulo 2^13 (R10). -/
theorem mask13_toNat (w : Word) : (mask13 w).toNat = w.toNat % 2 ^ 13 := by
  simp [mask13]

/-- Settles O15: one level of indirection reads the low 13 bits of the word at Y. -/
theorem effectiveAddressFollowsOneLevel : Obligations.EffectiveAddressFollowsOneLevel :=
  fun s y => ⟨rfl, mask13_toNat (s.readWord y), fun _ => rfl⟩

end Sys2Proof.Machine

/-! The words of the memory-reference instructions as spec/41_memref.md writes them, and what decoding one gives
(spec/30_encoding.md R81, R83). -/

namespace Sys2Proof.Machine

/-- The OR of the base, the indirect bit and the address is the word of the three fields (R81). -/
theorem memrefBits_eq (op : BitVec 4) (ind : Bool) (y : Addr) :
    memrefBits (op ++ 0#14) ind y = memrefWord op ind y := by
  apply BitVec.eq_of_getLsbD_eq
  intro k hk
  simp only [memrefBits, memrefWord, BitVec.getLsbD_or, BitVec.getLsbD_append, BitVec.getLsbD_setWidth]
  cases ind <;> interval_cases k <;> simp

/-- A word written so decodes to the instruction that its operation number selects, with its own operand (R83). -/
theorem decode_memrefBits {base : Word} {op : BitVec 4} {row : Bool → Addr → Instr} (hbase : base = op ++ 0#14)
    (hrow : ∀ p w, opField w = op → decode p w = row (indirectField w) (addressField w)) (p : Params) (ind : Bool)
    (y : Addr) : decode p (memrefBits base ind y) = row ind y := by
  subst hbase
  rw [memrefBits_eq, hrow p _ (opField_memrefWord op ind y), indirectField_memrefWord, addressField_memrefWord]

end Sys2Proof.Machine

/-! What the memory-reference instructions other than XCT compute: addresses, return words and the two additions
(spec/41_memref.md R121, R123, R128, R129, R131, R133). -/

namespace Sys2Proof.Machine

/-! ### Addresses and words -/

theorem mask13_eq_setWidth (w : Word) : mask13 w = w.setWidth 13 :=
  (BitVec.setWidth_eq_extractLsb' (by decide)).symm

theorem zext18_eq_setWidth (a : Addr) : zext18 a = a.setWidth 18 := (BitVec.setWidth_eq_append (by decide)).symm

theorem effectiveAddress_eq (ind : Bool) (y : Addr) (s : State) :
    effectiveAddress ind y s = if ind then (s.readWord y).setWidth 13 else y := by
  rw [effectiveAddress, mask13_eq_setWidth]

/-- A skip, like a fetch, wraps PC at 13 bits (R102, R107). -/
theorem skip_pc (pc : Addr) : pc + 1 + 1 = pc + 2 := BitVec.add_assoc pc 1 1

/-! ### The return words -/

/-- CAL's accumulator: the cell's old word, or the return address it stores (R121). -/
theorem calAct_eq (ea : Addr) (mb : Word) (s : State) :
    calAct ea mb s = { s.writeWord ea (zext18 s.pc) with
      pc := ea + 1
      ac := if s.params.calAcSource = .latched then mb else zext18 s.pc } := by
  unfold calAct
  cases s.params.calAcSource <;> rfl

/-- The number of two bit strings put together. -/
theorem append_toNat {m n : Nat} (x : BitVec m) (y : BitVec n) :
    (x ++ y).toNat = x.toNat * 2 ^ n + y.toNat := by
  rw [BitVec.toNat_append, ← Nat.shiftLeft_add_eq_or_of_lt y.isLt, Nat.shiftLeft_eq]

/-- The Link is bit 17 of the return word, PC its low 13 bits, and the bits between are 0 (R123). -/
theorem jmsReturnWord_toNat (s : State) :
    (jmsReturnWord s).toNat = (if s.params.jmsSavesLink then s.link.toNat * 2 ^ 17 else 0) + s.pc.toNat := by
  unfold jmsReturnWord
  split_ifs
  · have hlink : (s.link ++ 0#4).toNat = s.link.toNat * 2 ^ 4 := append_toNat s.link 0#4
    rw [append_toNat (s.link ++ 0#4), hlink, Nat.mul_assoc, ← pow_add]
  · exact append_toNat 0#5 s.pc

/-- Whatever its bit 17, the low 13 bits of the return word are the return address (R104, R123). -/
theorem mask13_jmsReturnWord (s : State) : mask13 (jmsReturnWord s) = s.pc := by
  rw [mask13_eq_setWidth, jmsReturnWord]
  split_ifs <;> exact BitVec.setWidth_append_eq_right

/-! ### ADD -/

theorem addOperand_toNat (mode : AddNegzero) (w : Word) :
    (addOperand mode w).toNat = if mode = .normalizeOperands ∧ w = minusZero then 0 else w.toNat := by
  cases mode with
  | normalizeOperands => simp [addOperand, apply_ite BitVec.toNat]
  | normalizeResult | keep => simp [addOperand]

theorem addResult_toNat (mode : AddNegzero) (w : Word) :
    (addResult mode w).toNat = if mode = .normalizeResult ∧ w = minusZero then 0 else w.toNat := by
  cases mode with
  | normalizeResult => simp [addResult, apply_ite BitVec.toNat]
  | normalizeOperands | keep => simp [addResult]

/-- A sum of two words with its carry out of bit 17 added in at bit 0 (R128). -/
def endAround (sum : Nat) : Nat := if 2 ^ 18 ≤ sum then sum - 2 ^ 18 + 1 else sum

theorem endAround_lt {a b : Word} : endAround (a.toNat + b.toNat) < 2 ^ 18 := by
  have ha := a.isLt
  have hb := b.isLt
  unfold endAround
  split_ifs <;> omega

/-- The end-around carry keeps the sum modulo 2^18 - 1 (R128). -/
theorem endAround_modEq (sum : Nat) : endAround sum ≡ sum [MOD 2 ^ 18 - 1] := by
  unfold endAround
  split_ifs with hcarry
  · have hsum : sum = sum - 2 ^ 18 + 1 + (2 ^ 18 - 1) := by omega
    conv_rhs => rw [hsum]
    exact Nat.ModEq.symm Nat.add_modEq_right
  · rfl

/-- ADD's sum, its operands as `ADD_NEGZERO` treats them. -/
def addSum (mode : AddNegzero) (a b : Word) : Nat := (addOperand mode a).toNat + (addOperand mode b).toNat

theorem addOnes_eq (mode : AddNegzero) (link : Bit) (a b : Word) :
    addOnes mode link a b =
      { ac := addResult mode (BitVec.ofNat 18 (endAround (addSum mode a b)))
        link := if 2 ^ 18 ≤ addSum mode a b then 1 else link } := by
  by_cases hcarry : 2 ^ 18 ≤ addSum mode a b
  · rw [endAround, if_pos hcarry, if_pos hcarry]
    exact if_pos hcarry
  · rw [endAround, if_neg hcarry, if_neg hcarry]
    exact if_neg hcarry

/-- The accumulator that ADD leaves, as a number. -/
theorem addOnes_ac_toNat (mode : AddNegzero) (link : Bit) (a b : Word) :
    (addOnes mode link a b).ac.toNat =
      if mode = .normalizeResult ∧ endAround (addSum mode a b) = 0o777777 then 0
      else endAround (addSum mode a b) := by
  have hlt : endAround (addSum mode a b) < 2 ^ 18 := endAround_lt
  have hnat : (BitVec.ofNat 18 (endAround (addSum mode a b))).toNat = endAround (addSum mode a b) :=
    Nat.mod_eq_of_lt hlt
  have hzero : BitVec.ofNat 18 (endAround (addSum mode a b)) = minusZero ↔
      endAround (addSum mode a b) = 0o777777 := by
    rw [← BitVec.toNat_inj, hnat]
    rfl
  simp only [addOnes_eq, addResult_toNat, hnat, hzero]

theorem addOnes_link (mode : AddNegzero) (link : Bit) (a b : Word) :
    (addOnes mode link a b).link = if 2 ^ 18 ≤ addSum mode a b then 1 else link := by
  rw [addOnes_eq]

/-- Reading minus zero as zero keeps a number modulo 2^18 - 1 (R10). -/
theorem ite_minusZero_modEq {c : Prop} [Decidable c] {n : Nat} (h : c → n = 0o777777) :
    (if c then 0 else n) ≡ n [MOD 2 ^ 18 - 1] := by
  split_ifs with hc
  · rw [h hc]
    rfl
  · rfl

theorem addOperand_modEq (mode : AddNegzero) (w : Word) :
    (addOperand mode w).toNat ≡ w.toNat [MOD 2 ^ 18 - 1] := by
  rw [addOperand_toNat]
  exact ite_minusZero_modEq fun ⟨_, hw⟩ => hw ▸ rfl

/-- Whatever `ADD_NEGZERO` does with minus zero, ADD is the sum modulo 2^18 - 1. -/
theorem addOnes_ac_modEq (mode : AddNegzero) (link : Bit) (a b : Word) :
    (addOnes mode link a b).ac.toNat ≡ a.toNat + b.toNat [MOD 2 ^ 18 - 1] := by
  rw [addOnes_ac_toNat]
  calc (if mode = .normalizeResult ∧ endAround (addSum mode a b) = 0o777777 then 0
      else endAround (addSum mode a b))
    _ ≡ endAround (addSum mode a b) [MOD 2 ^ 18 - 1] := ite_minusZero_modEq And.right
    _ ≡ addSum mode a b [MOD 2 ^ 18 - 1] := endAround_modEq _
    _ ≡ a.toNat + b.toNat [MOD 2 ^ 18 - 1] := (addOperand_modEq mode a).add (addOperand_modEq mode b)

/-! ### TAD -/

theorem addTwos_ac_toNat (link : Bit) (a b : Word) :
    (addTwos link a b).ac.toNat = (a.toNat + b.toNat) % 2 ^ 18 := rfl

/-- A carry out of bit 17 complements the Link (R129). -/
theorem addTwos_link_toNat (link : Bit) (a b : Word) :
    (addTwos link a b).link.toNat = if 2 ^ 18 ≤ a.toNat + b.toNat then 1 - link.toNat else link.toNat := by
  unfold addTwos
  dsimp only
  split_ifs
  · exact BitVec.toNat_not
  · rfl

end Sys2Proof.Machine

/-! The memory-reference instructions other than XCT as whole steps (spec/41_memref.md R121 to R133): the common part
of their step, then what each adds to it. -/

namespace Sys2Proof.Machine

/-! ### The common part of a step -/

/-- What the act makes of the fetched and latched state is what the step leaves, but for the cost (R100, R109). -/
theorem memrefStep_of_act {cost : CycTable → Nat} {act : Addr → Word → State → State} {ind : Bool} {y : Addr}
    {s t : State}
    (h : act (effectiveAddress ind y s) (memoryBuffer ind y s) (s.fetched.latched ind y) = t) :
    memrefStep cost act ind y s = .next (t.addCycles (cost s.params.cyc + indirectCost ind)) :=
  h ▸ memrefStep_eq cost act ind y s

/-- In a canonical memory a write stores its word, and no other. -/
theorem storesOnly_of_mem {s t : State} {a : Addr} {v : Word} (hwf : Memory.wf s.mem)
    (h : t.mem = (s.writeWord a v).mem) : StoresOnly s t a v := by
  have hread (b : Addr) : t.readWord b = (s.writeWord a v).readWord b := congrArg (Memory.read · b.toNat) h
  exact ⟨(hread a).trans (s.readWord_writeWord_same a v hwf),
    fun b hb => (hread b).trans (s.readWord_writeWord_other a b v hb)⟩

/-! ### The instructions that store -/

/-- Settles O16: the cell is written with the return address, and the rest of the step is CAL's act. -/
theorem calCallsAndLoads : Obligations.CalCallsAndLoads := by
  refine ⟨decode_memrefBits (op := 0) rfl fun p w h => by simp [decode, h], fun ind y s hwf => ?_⟩
  rw [← zext18_eq_setWidth]
  exact ⟨_, memrefStep_of_act (cost := (·.cal)) (calAct_eq _ _ _), rfl, storesOnly_of_mem hwf rfl⟩

/-- Settles O17: each act is its one write. -/
theorem dacAndDzmStore : Obligations.DacAndDzmStore := by
  refine ⟨decode_memrefBits (op := 1) rfl fun p w h => by simp [decode, h],
    decode_memrefBits (op := 3) rfl fun p w h => by simp [decode, h], fun ind y s hwf => ⟨?_, ?_⟩⟩
  · exact ⟨_, exec_dac_eq ind y s, rfl, storesOnly_of_mem hwf rfl⟩
  · exact ⟨_, memrefStep_eq (·.dzm) dzmAct ind y s, rfl, storesOnly_of_mem hwf rfl⟩

/-- Settles O18: the return reads the stored cell, whose low 13 bits are the return address. -/
theorem jmsStoresTheReturnWord : Obligations.JmsStoresTheReturnWord := by
  refine ⟨decode_memrefBits (op := 2) rfl fun p w h => by simp [decode, h], fun ind y s hwf => ?_⟩
  have hcall := memrefStep_eq (·.jms) jmsAct ind y s
  have hstore : StoresOnly s _ (effectiveAddress ind y s) (jmsReturnWord (s.fetched.latched ind y)) :=
    storesOnly_of_mem hwf rfl
  have hreturn := (congrArg mask13 hstore.1).trans (mask13_jmsReturnWord _)
  exact ⟨_, _, hcall, rfl, hstore, jmsReturnWord_toNat _, _, memrefStep_eq (·.jmp) jmpAct true _ _, hreturn, rfl⟩

/-- The whole step of ISZ: the incremented buffer in the cell, and PC one word further when that is 0 (R131). -/
theorem exec_isz_eq (ind : Bool) (y : Addr) (s : State) :
    exec (.isz ind y) s = .next { s.afterMemref s.params.cyc.isz ind y with
      mem := (s.writeWord (effectiveAddress ind y s) (memoryBuffer ind y s + 1)).mem
      pc := if memoryBuffer ind y s + 1 = 0 then s.pc + 2 else s.pc + 1 } := by
  refine (memrefStep_of_act (cost := (·.isz)) (State.skipWhen_eq _ _)).trans ?_
  simp only [beq_iff_eq, State.writeWord_pc, ← skip_pc]
  rfl

/-- Settles O25: the cell and the skip both come from the one incremented buffer. -/
theorem iszIncrementsAndSkipsOnZero : Obligations.IszIncrementsAndSkipsOnZero := by
  refine ⟨decode_memrefBits (op := 9) rfl fun p w h => by simp [decode, h], fun ind y s hwf => ?_⟩
  exact ⟨_, memoryBuffer ind y s + 1, exec_isz_eq ind y s, BitVec.toNat_add _ _, rfl, storesOnly_of_mem hwf rfl⟩

/-! ### The instructions that compute -/

/-- Settles O19: each act is its one write of the accumulator. -/
theorem loadAndLogicResults : Obligations.LoadAndLogicResults :=
  ⟨decode_memrefBits (op := 4) rfl fun p w h => by simp [decode, h],
    decode_memrefBits (op := 5) rfl fun p w h => by simp [decode, h],
    decode_memrefBits (op := 10) rfl fun p w h => by simp [decode, h],
    fun ind y s => ⟨memrefStep_eq (·.lac) lacAct ind y s, memrefStep_eq (·.xor) xorAct ind y s,
      memrefStep_eq (·.and) andAct ind y s⟩⟩

/-- The whole step of ADD: the accumulator and the Link of its sum (R128). -/
theorem exec_add_eq (ind : Bool) (y : Addr) (s : State) :
    exec (.add ind y) s = .next { s.afterMemref s.params.cyc.add ind y with
      ac := (addOnes s.params.addNegzero s.link s.ac (memoryBuffer ind y s)).ac
      link := (addOnes s.params.addNegzero s.link s.ac (memoryBuffer ind y s)).link } :=
  memrefStep_eq (·.add) addAct ind y s

/-- Settles O20: the statement's operands and their sum are ADD's own. -/
theorem addIsOnesComplementWithEndAroundCarry : Obligations.AddIsOnesComplementWithEndAroundCarry := by
  refine ⟨decode_memrefBits (op := 6) rfl fun p w h => by simp [decode, h], fun ind y s => ?_⟩
  intro operand sum folded
  have hsum : addSum s.params.addNegzero s.ac (memoryBuffer ind y s) = sum :=
    congrArg₂ (· + ·) (addOperand_toNat _ _) (addOperand_toNat _ _)
  refine ⟨_, (exec_add_eq ind y s).trans ?_,
    (addOnes_ac_toNat s.params.addNegzero s.link s.ac (memoryBuffer ind y s)).trans ?_⟩
  · rw [addOnes_link, hsum]
  · rw [hsum]
    rfl

/-- Settles O21: neither the end-around carry nor any treatment of minus zero changes the residue. -/
theorem addAgreesWithTheSumModuloMinusZero : Obligations.AddAgreesWithTheSumModuloMinusZero := by
  intro ind y s t h
  cases (exec_add_eq ind y s).symm.trans h
  exact addOnes_ac_modEq _ _ _ _

/-- Settles O22: the act writes TAD's sum and the Link with it. -/
theorem tadIsTwosComplementAndTogglesLink : Obligations.TadIsTwosComplementAndTogglesLink := by
  refine ⟨decode_memrefBits (op := 7) rfl fun p w h => by simp [decode, h], fun ind y s => ?_⟩
  exact ⟨_, _, memrefStep_eq (·.tad) tadAct ind y s, addTwos_ac_toNat s.link _ _, addTwos_link_toNat _ _ _⟩

/-! ### The instructions that only move PC -/

/-- Settles O26: SAD's act is a skip, and PC has already passed the instruction. -/
theorem sadSkipsWhenDifferent : Obligations.SadSkipsWhenDifferent := by
  refine ⟨decode_memrefBits (op := 11) rfl fun p w h => by simp [decode, h], fun ind y s => ?_⟩
  refine (memrefStep_of_act (cost := (·.sad)) (State.skipWhen_eq _ _)).trans ?_
  simp only [bne_iff_ne, ite_not, ← skip_pc]
  rfl

/-- Settles O27: the act writes the effective address to PC, after the latches have read it. -/
theorem jmpGoesToTheEffectiveAddress : Obligations.JmpGoesToTheEffectiveAddress := by
  refine ⟨decode_memrefBits (op := 12) rfl fun p w h => by simp [decode, h], fun ind y s => ?_⟩
  rw [← effectiveAddress_eq]
  exact memrefStep_eq (·.jmp) jmpAct ind y s

end Sys2Proof.Machine

/-! The accumulator and the Link as one ring of 19 bits, and what one rotate and two make of each
(spec/42_operate.md R154, R158). -/

namespace Sys2Proof.Machine

/-! ### The ring and its two parts -/

@[simp] theorem ringAc_ring (link : Bit) (ac : Word) : ringAc (ring link ac) = ac := BitVec.extractLsb'_append_eq_right

@[simp] theorem ringLink_ring (link : Bit) (ac : Word) : ringLink (ring link ac) = link :=
  BitVec.extractLsb'_append_eq_left

/-- The ring holds the whole of an accumulator and Link. -/
theorem ring_injective {r t : AcLink} (h : ring r.link r.ac = ring t.link t.ac) : r = t := by
  have hac : r.ac = t.ac := by simpa using congrArg ringAc h
  have hlink : r.link = t.link := by simpa using congrArg ringLink h
  cases r
  cases t
  congr

/-- The Link stands at place 18 of the ring, above the accumulator (R154). -/
theorem getElem_ring (link : Bit) (ac : Word) {i : Nat} (hi : i < 19) :
    (ring link ac)[i] = if h : i < 18 then ac[i] else link[0] := by
  rw [ring, BitVec.getElem_append]
  split_ifs with h
  · rfl
  · congr 1
    omega

/-! ### Turning nineteen bits -/

/-- Turns to the left add up. -/
theorem rotateLeft_rotateLeft (x : BitVec 19) (m n : Nat) : (x.rotateLeft m).rotateLeft n = x.rotateLeft (m + n) := by
  apply BitVec.eq_of_getElem_eq
  intro i hi
  simp only [BitVec.getElem_rotateLeft]
  split_ifs <;> grind

/-- A turn to the right is the rest of a full circle to the left. -/
theorem rotateRight_eq_rotateLeft (x : BitVec 19) {n : Nat} (hn : n ≤ 19) : x.rotateRight n = x.rotateLeft (19 - n) := by
  apply BitVec.eq_of_getElem_eq
  intro i hi
  simp only [BitVec.getElem_rotateLeft, BitVec.getElem_rotateRight]
  split_ifs <;> grind

theorem rotateLeft_zero (x : BitVec 19) : x.rotateLeft 0 = x := by
  simp [BitVec.rotateLeft_def, BitVec.ushiftRight_eq_zero]

/-- Nineteen places are a full circle. -/
theorem rotateLeft_nineteen (x : BitVec 19) : x.rotateLeft 19 = x := by
  rw [← BitVec.rotateLeft_mod_eq_rotateLeft, Nat.mod_self, rotateLeft_zero]

theorem rotateRight_one_twice (x : BitVec 19) : (x.rotateRight 1).rotateRight 1 = x.rotateRight 2 := by
  calc (x.rotateRight 1).rotateRight 1
    _ = x.rotateLeft (18 + 18) := by
      rw [rotateRight_eq_rotateLeft _ (by decide), rotateRight_eq_rotateLeft _ (by decide), rotateLeft_rotateLeft]
    _ = (x.rotateLeft 17).rotateLeft 19 := (rotateLeft_rotateLeft x 17 19).symm
    _ = x.rotateRight 2 := by rw [rotateLeft_nineteen, rotateRight_eq_rotateLeft x (by decide)]

/-! ### One rotate, bit by bit -/

theorem getElem_rotl_ac (r : AcLink) {i : Nat} (hi : i < 18) :
    (rotl r).ac[i] = if h : i < 1 then r.link[i] else r.ac[i - 1] := by
  refine (BitVec.getElem_append hi).trans ?_
  simp [BitVec.getLsbD_eq_getElem (show i - 1 < 18 by omega)]

theorem getElem_rotr_ac (r : AcLink) {i : Nat} (hi : i < 18) :
    (rotr r).ac[i] = if h : i < 17 then r.ac[i + 1] else r.link[i - 17] := by
  refine (BitVec.getElem_append hi).trans ?_
  split_ifs with h
  · simp [Nat.add_comm 1 i, BitVec.getLsbD_eq_getElem (show i + 1 < 18 by omega)]
  · rfl

theorem getElem_rotl_link (r : AcLink) : (rotl r).link[0] = r.ac[17] := by simp [rotl]

theorem getElem_rotr_link (r : AcLink) : (rotr r).link[0] = r.ac[0] := by simp [rotr]

/-! ### Rotates turn the ring -/

theorem ring_rotl (r : AcLink) : ring (rotl r).link (rotl r).ac = (ring r.link r.ac).rotateLeft 1 := by
  apply BitVec.eq_of_getElem_eq
  intro i hi
  simp only [BitVec.getElem_rotateLeft, getElem_ring, getElem_rotl_ac, getElem_rotl_link]
  interval_cases i <;> rfl

theorem ring_rotr (r : AcLink) : ring (rotr r).link (rotr r).ac = (ring r.link r.ac).rotateRight 1 := by
  apply BitVec.eq_of_getElem_eq
  intro i hi
  simp only [BitVec.getElem_rotateRight, getElem_ring, getElem_rotr_ac, getElem_rotr_link]
  interval_cases i <;> rfl

theorem rotr_rotl (r : AcLink) : rotr (rotl r) = r := by
  apply ring_injective
  rw [ring_rotr, ring_rotl, rotateRight_eq_rotateLeft _ (by decide), rotateLeft_rotateLeft]
  exact rotateLeft_nineteen _

theorem rotl_rotr (r : AcLink) : rotl (rotr r) = r := by
  apply ring_injective
  rw [ring_rotl, ring_rotr, rotateRight_eq_rotateLeft _ (by decide), rotateLeft_rotateLeft]
  exact rotateLeft_nineteen _

theorem ring_iterate_rotl (r : AcLink) (n : Nat) :
    ring (rotl^[n] r).link (rotl^[n] r).ac = (ring r.link r.ac).rotateLeft n := by
  induction n with
  | zero => exact (rotateLeft_zero _).symm
  | succ n ih => rw [Function.iterate_succ_apply', ring_rotl, ih, rotateLeft_rotateLeft]

theorem rotl_iterate_nineteen (r : AcLink) : rotl^[19] r = r :=
  ring_injective ((ring_iterate_rotl r 19).trans (rotateLeft_nineteen _))

/-- Nineteen turns to the right undo nineteen to the left, which change nothing. -/
theorem rotr_iterate_nineteen (r : AcLink) : rotr^[19] r = r :=
  calc rotr^[19] r
    _ = rotr^[19] (rotl^[19] r) := by rw [rotl_iterate_nineteen]
    _ = r := Function.LeftInverse.iterate rotr_rotl 19 r

/-- Settles O37: what the ring does, the accumulator and the Link do, since they are all of it (`ring_injective`). -/
theorem rotatesTurnTheRing : Obligations.RotatesTurnTheRing := fun r =>
  ⟨ring_rotl r, ring_rotr r, rfl, rfl, rotr_rotl r, rotl_rotr r, rotl_iterate_nineteen r, rotr_iterate_nineteen r⟩

/-! ### Rotates as shifts -/

theorem rotl_eq (r : AcLink) :
    rotl r = { ac := r.ac <<< 1 ||| r.link.setWidth 18, link := r.ac.extractLsb' 17 1 } := by
  have hac : (rotl r).ac = r.ac <<< 1 ||| r.link.setWidth 18 := by
    apply BitVec.eq_of_getElem_eq
    intro i hi
    rw [getElem_rotl_ac]
    rcases i with _ | i <;> simp
  exact congrArg (AcLink.mk · _) hac

theorem rotr_eq (r : AcLink) :
    rotr r = { ac := r.ac >>> 1 ||| r.link.setWidth 18 <<< 17, link := r.ac.extractLsb' 0 1 } := by
  have hac : (rotr r).ac = r.ac >>> 1 ||| r.link.setWidth 18 <<< 17 := by
    apply BitVec.eq_of_getElem_eq
    intro i hi
    rw [getElem_rotr_ac]
    split_ifs with h
    · simp [h, Nat.add_comm 1 i, BitVec.getLsbD_eq_getElem (show i + 1 < 18 by omega)]
    · obtain rfl : i = 17 := by omega
      simp
  exact congrArg (AcLink.mk · _) hac

theorem setWidth_top_bit (w : Word) : (w.extractLsb' 17 1).setWidth 18 = w >>> 17 := by
  apply BitVec.eq_of_getElem_eq
  intro i hi
  rcases i with _ | i
  · simp
  · simp [BitVec.getLsbD_of_ge w (17 + (i + 1)) (by omega)]

theorem setWidth_bottom_bit_shiftLeft (w : Word) : (w.extractLsb' 0 1).setWidth 18 <<< 17 = w <<< 17 := by
  apply BitVec.eq_of_getElem_eq
  intro i hi
  rcases Nat.lt_or_ge i 17 with h | h
  · simp [h]
  · obtain rfl : i = 17 := by omega
    simp

/-- Two rotates to the left: the Link comes in at bit 1, the old bit 17 at bit 0 (R154). -/
theorem rotl_rotl_eq (r : AcLink) : rotl (rotl r) =
    { ac := r.ac <<< 2 ||| r.link.setWidth 18 <<< 1 ||| r.ac >>> 17, link := r.ac.extractLsb' 16 1 } := by
  have hlink : (r.ac <<< 1 ||| r.link.setWidth 18).extractLsb' 17 1 = r.ac.extractLsb' 16 1 := by
    apply BitVec.eq_of_getElem_eq
    intro i hi
    obtain rfl : i = 0 := by omega
    simp
  rw [rotl_eq, rotl_eq, hlink]
  simp only [BitVec.shiftLeft_or_distrib, ← BitVec.shiftLeft_add, setWidth_top_bit]

/-- Two rotates to the right: the Link comes in at bit 16, the old bit 0 at bit 17 (R154). -/
theorem rotr_rotr_eq (r : AcLink) : rotr (rotr r) =
    { ac := r.ac >>> 2 ||| r.link.setWidth 18 <<< 16 ||| r.ac <<< 17, link := r.ac.extractLsb' 1 1 } := by
  have hlink : (r.ac >>> 1 ||| r.link.setWidth 18 <<< 17).extractLsb' 0 1 = r.ac.extractLsb' 1 1 := by
    apply BitVec.eq_of_getElem_eq
    intro i hi
    obtain rfl : i = 0 := by omega
    simp
  have hshift : r.link.setWidth 18 <<< 17 >>> 1 = r.link.setWidth 18 <<< 16 := by
    rcases BitVec.eq_zero_or_eq_one r.link with h | h <;> rw [h] <;> rfl
  rw [rotr_eq, rotr_eq, hlink]
  simp only [BitVec.ushiftRight_or_distrib, ← BitVec.shiftRight_add, hshift, setWidth_bottom_bit_shiftLeft]

end Sys2Proof.Machine

/-! The operate word as a whole step, its skip, its named words and LAW (spec/42_operate.md R151 to R165). -/

namespace Sys2Proof.Machine

/-! ### The skip -/

/-- Some selected test holds (R160). -/
def SomeTestHolds (bits : BitVec 13) (r : AcLink) : Prop :=
  (bits.getLsbD 6 = true ∧ r.ac.getLsbD 17 = true) ∨ (bits.getLsbD 7 = true ∧ r.ac = 0) ∨
    (bits.getLsbD 8 = true ∧ r.link = 1)

/-- Bit 9 inverts the OR of the selected tests (R160). -/
theorem operateSkips_iff {bits : BitVec 13} {r : AcLink} : operateSkips bits r = true ↔
    (SomeTestHolds bits r ∧ bits.getLsbD 9 = false) ∨ (¬SomeTestHolds bits r ∧ bits.getLsbD 9 = true) := by
  have htests : SomeTestHolds bits r ↔ ((bits.getLsbD 6 && r.ac.getLsbD 17) || (bits.getLsbD 7 && r.ac == 0) ||
      (bits.getLsbD 8 && r.link == 1)) = true := by
    simp [SomeTestHolds, or_assoc]
  rw [htests, operateSkips]
  generalize (_ || bits.getLsbD 8 && r.link == 1) = tests
  cases tests <;> cases bits.getLsbD 9 <;> decide

theorem operateSkips_of_clear {bits : BitVec 13} {r : AcLink} (h : bits.getLsbD 9 = false) :
    operateSkips bits r = true ↔ SomeTestHolds bits r := by
  rw [operateSkips_iff, h]
  simp

theorem operateSkips_of_set {bits : BitVec 13} {r : AcLink} (h : bits.getLsbD 9 = true) :
    operateSkips bits r = true ↔ ¬SomeTestHolds bits r := by
  rw [operateSkips_iff, h]
  simp

/-- Bit 17, which SMA tests, is set in the upper half of the words (R160). -/
theorem getLsbD_sign_iff (w : Word) : w.getLsbD 17 = true ↔ 2 ^ 17 ≤ w.toNat := by
  simpa [BitVec.msb_eq_getLsbD_last] using congrArg (· = true) (BitVec.msb_eq_decide w)

theorem link_ne_one_iff (link : Bit) : ¬link = 1 ↔ link = 0 := by
  rcases BitVec.eq_zero_or_eq_one link with h | h <;> rw [h] <;> decide

/-- Settles O38: bit 9 chooses between the OR of the tests and its negation. -/
theorem invertedSkipNeedsEveryCondition : Obligations.InvertedSkipNeedsEveryCondition := by
  intro bits r
  refine ⟨fun hclear => ?_, fun hset => ?_⟩
  · rw [operateSkips_of_clear hclear, SomeTestHolds, getLsbD_sign_iff]
  · rw [operateSkips_of_set hset]
    simp only [SomeTestHolds, getLsbD_sign_iff, link_ne_one_iff, not_or, not_and, not_le, ne_eq]

/-! ### The words -/

theorem operateWord_eq_or (bits : BitVec 13) : operateWord bits = 0o740000 ||| bits.setWidth 18 :=
  (operateWord_eq bits).trans (memrefBits_eq 15 false bits).symm

theorem lawWord_eq_or (k : BitVec 13) : lawWord k = 0o760000 ||| k.setWidth 18 :=
  (lawWord_eq k).trans (memrefBits_eq 15 true k).symm

/-- Settles O36: LAW is done or traps as `OPT_LAW` says, and its word is the one it decodes from. -/
theorem lawLoadsItsOwnWord : Obligations.LawLoadsItsOwnWord := by
  refine ⟨rfl, fun p k => ?_, fun k s => ⟨fun hopt => ?_, fun hopt => ?_⟩⟩ <;> rw [← lawWord_eq_or]
  · rw [decode_law p (opField_lawWord k) (indirectField_lawWord k), addressField_lawWord]
  · have hdone : lawEffect k s.fetched = .done { s.fetched with ac := lawWord k } := if_pos hopt
    exact ⟨_, registerStep_done (cost := (·.opr)) hdone, rfl⟩
  · exact exec_of_illegalCause (i := .law k) (by simp [illegalCause, hopt])

/-- A name of its own gives a word no meaning of its own (R165). -/
theorem exec_decodeOperate (bits : BitVec 13) (s : State) : exec (decodeOperate bits) s = exec (.opr bits) s := by
  unfold decodeOperate
  iterate 24 refine ite_induction (fun i => exec i s = exec (.opr bits) s) (fun h => h ▸ rfl) (fun _ => ?_)
  rfl

/-! ### The whole step of a legal word -/

/-- What the stages before the skip make of a state's accumulator and Link, with the switches that OAS would read
(R152, R156). -/
def State.operated (s : State) (bits : BitVec 13) : AcLink :=
  operateAcLink bits (Config.drawSwitches s.draws) { ac := s.ac, link := s.link }

theorem operate_eq (bits : BitVec 13) (s : State) : operate bits s = { s with
    ac := (s.operated bits).ac
    link := (s.operated bits).link
    draws := if bits.getLsbD 2 then s.draws + 1 else s.draws
    run := if bits.getLsbD 5 then false else s.run
    pc := if operateSkips bits (s.operated bits) then s.pc + 1 else s.pc } :=
  State.skipWhen_eq _ _

/-- A legal word leaves what its stages make, and skips on that (R152, R153). -/
theorem opr_leaves {bits : BitVec 13} {s : State} {ac : Word} {link : Bit} {c : Prop} [Decidable c]
    (hlegal : operateLegal bits = true) (hr : s.operated bits = { ac := ac, link := link })
    (hskip : operateSkips bits { ac := ac, link := link } = true ↔ c) :
    OperateLeaves (.opr bits) s ac link (if c then s.pc + 2 else s.pc + 1)
      (if bits.getLsbD 5 then false else s.run) := by
  have hfetched : s.fetched.operated bits = { ac := ac, link := link } := hr
  refine ⟨_, registerStep_done (cost := (·.opr)) (operateEffect_legal s.fetched hlegal), ?_⟩
  rw [operate_eq, hfetched, ← if_congr hskip rfl rfl, ← skip_pc]
  rfl

/-- R151 (b) and (c) by the bits, for a legal word. -/
theorem operateLegal_of_bits {bits : BitVec 13} (hboth : ¬(bits.getLsbD 3 = true ∧ bits.getLsbD 4 = true))
    (htwice : bits.getLsbD 10 = true → bits.getLsbD 3 = true ∨ bits.getLsbD 4 = true) : operateLegal bits = true := by
  rw [← Bool.not_eq_false, operateLegal_eq_false_iff]
  rintro (h | ⟨h10, h3, h4⟩)
  · exact hboth h
  · simp only [h3, h4, Bool.false_eq_true, or_false] at htwice
    exact htwice h10

theorem ring_rotateTimes_rotl (bits : BitVec 13) (r : AcLink) :
    ring (rotateTimes bits rotl r).link (rotateTimes bits rotl r).ac =
      (ring r.link r.ac).rotateLeft (if bits.getLsbD 10 then 2 else 1) := by
  unfold rotateTimes
  split_ifs
  · rw [ring_rotl, ring_rotl, rotateLeft_rotateLeft]
  · exact ring_rotl r

theorem ring_rotateTimes_rotr (bits : BitVec 13) (r : AcLink) :
    ring (rotateTimes bits rotr r).link (rotateTimes bits rotr r).ac =
      (ring r.link r.ac).rotateRight (if bits.getLsbD 10 then 2 else 1) := by
  unfold rotateTimes
  split_ifs
  · rw [ring_rotr, ring_rotr, rotateRight_one_twice]
  · exact ring_rotr r

/-- The rotates as turns of the ring, for a word that does not rotate both ways (R158). -/
theorem ring_operateRotates {bits : BitVec 13} (h : ¬(bits.getLsbD 3 = true ∧ bits.getLsbD 4 = true)) (r : AcLink) :
    ring (operateRotates bits r).link (operateRotates bits r).ac =
      if bits.getLsbD 3 then (ring r.link r.ac).rotateLeft (if bits.getLsbD 10 then 2 else 1)
      else if bits.getLsbD 4 then (ring r.link r.ac).rotateRight (if bits.getLsbD 10 then 2 else 1)
      else ring r.link r.ac := by
  rw [← ring_rotateTimes_rotl, ← ring_rotateTimes_rotr]
  unfold operateRotates
  cases hleft : bits.getLsbD 3 <;> cases hright : bits.getLsbD 4
  · rfl
  · rfl
  · rfl
  · exact absurd ⟨hleft, hright⟩ h

/-- Settles O33: the stages before the rotates are the model's own, and the rotates turn the ring. -/
theorem legalOperateWordsCompose : Obligations.LegalOperateWordsCompose := by
  intro bits s hboth htwice cleared switched complemented l1 l2 n r c
  have hring : ring _ _ = r := ring_operateRotates hboth { ac := complemented, link := l2 }
  have hresult : s.operated bits = { ac := ringAc r, link := ringLink r } := by
    rw [← hring, ringAc_ring, ringLink_ring]
    rfl
  refine ⟨opr_leaves (operateLegal_of_bits hboth htwice) hresult operateSkips_iff, ?_⟩
  rw [← operateWord_eq_or, decode_operateWord, exec_decodeOperate]

/-! ### The named words

A named word's bits are a literal, so its stages and its legality compute; what is left to say is the test it makes and
the form in which R165's table writes its result. -/

/-- A word leaves by its own name what it leaves as an operate word (R165). -/
theorem named_leaves (bits : BitVec 13) {s : State} {ac : Word} {link : Bit} {c : Prop} [Decidable c]
    (hlegal : operateLegal bits = true) (hr : s.operated bits = { ac := ac, link := link })
    (hskip : operateSkips bits { ac := ac, link := link } = true ↔ c) :
    OperateLeaves (decodeOperate bits) s ac link (if c then s.pc + 2 else s.pc + 1)
      (if bits.getLsbD 5 then false else s.run) := by
  rw [OperateLeaves, exec_decodeOperate]
  exact opr_leaves hlegal hr hskip

/-- A word that does not skip goes on to the next word. -/
theorem named_leaves_next (bits : BitVec 13) {s : State} {ac : Word} {link : Bit}
    (hlegal : operateLegal bits = true) (hr : s.operated bits = { ac := ac, link := link })
    (hskip : operateSkips bits { ac := ac, link := link } = false) :
    OperateLeaves (decodeOperate bits) s ac link (s.pc + 1) (if bits.getLsbD 5 then false else s.run) :=
  named_leaves bits (c := False) hlegal hr (by simp [hskip])

theorem named_leaves_unless (bits : BitVec 13) {s : State} {ac : Word} {link : Bit} {c : Prop} [Decidable c]
    (hlegal : operateLegal bits = true) (hr : s.operated bits = { ac := ac, link := link })
    (hskip : operateSkips bits { ac := ac, link := link } = true ↔ ¬c) :
    OperateLeaves (decodeOperate bits) s ac link (if c then s.pc + 1 else s.pc + 2)
      (if bits.getLsbD 5 then false else s.run) := by
  rw [← ite_not]
  exact named_leaves bits hlegal hr hskip

/-- Settles O34: the words that compute, then the words that test. -/
theorem namedOperateWordsDoWhatTheirNamesSay : Obligations.NamedOperateWordsDoWhatTheirNamesSay := by
  refine ⟨fun p => ?_, fun s => ?_⟩
  · exact ⟨rfl, rfl, rfl, rfl, rfl, rfl, rfl, rfl, rfl, rfl, rfl, rfl, rfl, rfl, rfl, rfl, rfl, rfl, rfl, rfl, rfl,
      rfl, rfl, rfl⟩
  · intro next skip sw
    have hcma : ~~~s.ac = 0o777777 - s.ac := (BitVec.allOnes_sub_eq_not s.ac).symm
    have hcml : ~~~s.link = 1 - s.link := (BitVec.allOnes_sub_eq_not s.link).symm
    have hstl : ~~~(0 : Bit) = 1 := rfl
    have hclc : ~~~(0 : Word) = 0o777777 := rfl
    have hlas : 0 ||| sw = sw := BitVec.zero_or
    refine ⟨?nop, ?cma, ?cml, ?oas, ?hlt, ?sma, ?sza, ?snl, ?skp, ?spa, ?sna, ?szl, ?cll, ?stl, ?cla, ?clc, ?las⟩
    case nop => exact named_leaves_next oprNop rfl rfl rfl
    case cma => exact named_leaves_next oprCma rfl (congrArg (AcLink.mk · _) hcma) rfl
    case cml => exact named_leaves_next oprCml rfl (congrArg (AcLink.mk _ ·) hcml) rfl
    case oas => exact named_leaves_next oprOas rfl rfl rfl
    case hlt => exact named_leaves_next oprHlt rfl rfl rfl
    case cll => exact named_leaves_next oprCll rfl rfl rfl
    case stl => exact named_leaves_next oprStl rfl (congrArg (AcLink.mk _ ·) hstl) rfl
    case cla => exact named_leaves_next oprCla rfl rfl rfl
    case clc => exact named_leaves_next oprClc rfl (congrArg (AcLink.mk · _) hclc) rfl
    case las => exact named_leaves_next oprLas rfl (congrArg (AcLink.mk · _) hlas) rfl
    case sma => exact named_leaves oprSma rfl rfl (by simp [operateSkips_of_clear, SomeTestHolds, oprSma])
    case sza => exact named_leaves oprSza rfl rfl (by simp [operateSkips_of_clear, SomeTestHolds, oprSza])
    case snl => exact named_leaves oprSnl rfl rfl (by simp [operateSkips_of_clear, SomeTestHolds, oprSnl])
    case skp => exact named_leaves oprSkp (c := True) rfl rfl (by simp [operateSkips_of_set, SomeTestHolds, oprSkp])
    case spa => exact named_leaves_unless oprSpa rfl rfl (by simp [operateSkips_of_set, SomeTestHolds, oprSpa])
    case sna => exact named_leaves_unless oprSna rfl rfl (by simp [operateSkips_of_set, SomeTestHolds, oprSna])
    case szl =>
      rw [← if_congr (link_ne_one_iff s.link) rfl rfl]
      exact named_leaves oprSzl rfl rfl (by simp [operateSkips_of_set, SomeTestHolds, oprSzl])

/-- Settles O35: each word is one rotate or two, of an accumulator and Link that CLL or CLA may have cleared. -/
theorem namedRotateWordsDoWhatTheirNamesSay : Obligations.NamedRotateWordsDoWhatTheirNamesSay := by
  intro s l
  have hrcl : rotl { ac := s.ac, link := 0 } = { ac := s.ac <<< 1, link := s.ac.extractLsb' 17 1 } := by
    simp [rotl_eq]
  have hrcr : rotr { ac := s.ac, link := 0 } = { ac := s.ac >>> 1, link := s.ac.extractLsb' 0 1 } := by
    simp [rotr_eq]
  have hglk : rotl { ac := 0, link := s.link } = { ac := l, link := 0 } := by
    simp [rotl_eq, l]
  refine ⟨?ral, ?rar, ?rtl, ?rtr, ?rcl, ?rcr, ?glk⟩
  case ral => exact named_leaves_next oprRal rfl (rotl_eq _) rfl
  case rar => exact named_leaves_next oprRar rfl (rotr_eq _) rfl
  case rtl => exact named_leaves_next oprRtl rfl (rotl_rotl_eq _) rfl
  case rtr => exact named_leaves_next oprRtr rfl (rotr_rotr_eq _) rfl
  case rcl => exact named_leaves_next oprRcl rfl hrcl rfl
  case rcr => exact named_leaves_next oprRcr rfl hrcr rfl
  case glk => exact named_leaves_next oprGlk rfl hglk rfl

end Sys2Proof.Machine

/-! The mailbox instructions and KRB as whole steps, and what any instruction may do to a pending word
(spec/43_iot_mailbox.md R182 to R192, spec/70_reset_and_hazards.md R279). -/

namespace Sys2Proof.Machine

/-! ### The mailbox write -/

theorem mailboxWrite_empty {m : Mailbox} {s : State} (v : Word) (h : s.mailbox m = 0) :
    mailboxWrite m v s = .done (s.withMailbox m v) := by
  rcases mailboxWrite_cases m v s with ⟨-, he⟩ | ⟨hfull, -, -⟩ | ⟨hfull, -, -⟩
  · exact he
  · exact absurd h hfull
  · exact absurd h hfull

theorem mailboxWrite_full_block {m : Mailbox} {s : State} (v : Word) (hb : s.params.mailboxPolicy = .block)
    (h : s.mailbox m ≠ 0) : mailboxWrite m v s = .hold := by
  rcases mailboxWrite_cases m v s with ⟨hempty, -⟩ | ⟨-, -, he⟩ | ⟨-, ho, -⟩
  · exact absurd hempty h
  · exact he
  · cases hb.symm.trans ho

theorem mailboxWrite_overwrite {m : Mailbox} {s : State} (v : Word) (ho : s.params.mailboxPolicy = .overwrite) :
    mailboxWrite m v s = .done { s.withMailbox m v with
      overwrites := if s.mailbox m = 0 then s.overwrites else s.overwrites + 1 } := by
  rcases mailboxWrite_cases m v s with ⟨hempty, he⟩ | ⟨-, hb, -⟩ | ⟨hfull, -, he⟩
  · rw [he, if_pos hempty]
    cases m <;> rfl
  · cases hb.symm.trans ho
  · rw [he, if_neg hfull]

/-- The word TLS sends is AC masked to its low 8 bits (R183). -/
theorem tlsWord_eq_and (ac : Word) : tlsWord ac = ac &&& 0o377 := by
  have hzext : tlsWord ac = (ac.extractLsb' 0 8).setWidth 18 := (BitVec.setWidth_eq_append (by decide)).symm
  apply BitVec.eq_of_toNat_eq
  rw [hzext, BitVec.toNat_setWidth_of_le (by decide)]
  simpa using (Nat.and_two_pow_sub_one_eq_mod ac.toNat 8).symm

/-! ### Whole steps -/

/-- Settles O29: KRB's effect is its one write of the accumulator. -/
theorem krbLoadsTheKeyboardValue : Obligations.KrbLoadsTheKeyboardValue := by
  intro s
  rw [BitVec.setWidth_eq_append (by decide)]
  exact ⟨_, registerStep_done (cost := (·.iot)) (effect := krbEffect) rfl, rfl⟩

/-- Settles O30: a full slot holds, and an empty one receives the word. -/
theorem mailboxWriteUnderBlock : Obligations.MailboxWriteUnderBlock := by
  intro s hb
  refine ⟨fun hfull => ?_, fun hfull => ?_, fun hempty => ?_, fun hempty => ?_⟩
  · exact registerStep_hold (effect := tlsEffect) (mailboxWrite_full_block (m := .tty) _ hb hfull)
  · exact registerStep_hold (effect := dspEffect) (mailboxWrite_full_block (m := .dsp) _ hb hfull)
  · rw [← tlsWord_eq_and]
    exact ⟨_, registerStep_done (effect := tlsEffect) (mailboxWrite_empty (m := .tty) _ hempty), rfl⟩
  · exact ⟨_, registerStep_done (effect := dspEffect) (mailboxWrite_empty (m := .dsp) _ hempty), rfl⟩

/-- Settles O31: the write is done whatever the slot holds. -/
theorem mailboxWriteUnderOverwrite : Obligations.MailboxWriteUnderOverwrite := by
  intro s ho
  refine ⟨?_, ?_⟩
  · rw [← tlsWord_eq_and]
    exact ⟨_, registerStep_done (effect := tlsEffect) (mailboxWrite_overwrite (m := .tty) _ ho), rfl⟩
  · exact ⟨_, registerStep_done (effect := dspEffect) (mailboxWrite_overwrite (m := .dsp) _ ho), rfl⟩

/-! ### What becomes of a pending word -/

/-- Both mailboxes, the count of overwritten words and the parameters are the same. -/
structure SameMailboxes (s t : State) : Prop where
  params : t.params = s.params
  mbxTty : t.mbxTty = s.mbxTty
  mbxDsp : t.mbxDsp = s.mbxDsp
  overwrites : t.overwrites = s.overwrites

theorem SameMailboxes.mailbox {s t : State} (h : SameMailboxes s t) : ∀ m, t.mailbox m = s.mailbox m
  | .tty => h.mbxTty
  | .dsp => h.mbxDsp

theorem sameMailboxes_cycleFrame : CycleFrame SameMailboxes where
  refl _ := ⟨rfl, rfl, rfl, rfl⟩
  trans h k := ⟨k.params.trans h.params, k.mbxTty.trans h.mbxTty, k.mbxDsp.trans h.mbxDsp,
    k.overwrites.trans h.overwrites⟩
  fetched _ := ⟨rfl, rfl, rfl, rfl⟩
  latched _ _ _ := ⟨rfl, rfl, rfl, rfl⟩
  addCycles _ _ := ⟨rfl, rfl, rfl, rfl⟩
  drawLatches _ := ⟨rfl, rfl, rfl, rfl⟩
  takeFault _ _ _ _ := ⟨rfl, rfl, rfl, rfl⟩

theorem sameMailboxes_skipWhen (s : State) (c : Bool) : SameMailboxes s (s.skipWhen c) := by
  cases c <;> exact ⟨rfl, rfl, rfl, rfl⟩

theorem iszAct_sameMailboxes (ea : Addr) (mb : Word) (s : State) : SameMailboxes s (iszAct ea mb s) :=
  have hstore : SameMailboxes s (s.writeWord ea (mb + 1)) := ⟨rfl, rfl, rfl, rfl⟩
  sameMailboxes_cycleFrame.trans hstore (sameMailboxes_skipWhen _ _)

theorem operateEffect_sameMailboxes (bits : BitVec 13) : RelatesWhenDone SameMailboxes (operateEffect bits) := by
  intro s t h
  rw [operateEffect_done h, operate_eq]
  exact ⟨rfl, rfl, rfl, rfl⟩

/-- Under Block no pending word is lost (R185); under Overwrite the one loss there may be is counted (R186). -/
structure CountsEveryLoss (s t : State) : Prop where
  block : s.params.mailboxPolicy = .block →
    (∀ m, s.mailbox m ≠ 0 → t.mailbox m = s.mailbox m) ∧ t.overwrites = s.overwrites
  overwrite : s.params.mailboxPolicy = .overwrite →
    (t.overwrites = s.overwrites ∨ t.overwrites = s.overwrites + 1) ∧
      ∀ m, s.mailbox m ≠ 0 → t.mailbox m ≠ s.mailbox m → t.overwrites = s.overwrites + 1

theorem SameMailboxes.countsEveryLoss {s t : State} (h : SameMailboxes s t) : CountsEveryLoss s t where
  block _ := ⟨fun m _ => h.mailbox m, h.overwrites⟩
  overwrite _ := ⟨.inl h.overwrites, fun m _ hne => absurd (h.mailbox m) hne⟩

/-- Unlike a frame it does not compose, but what leaves the mailboxes alone may stand on either side of it. -/
theorem CountsEveryLoss.congr {s s' t t' : State} (h : CountsEveryLoss s t) (hs : SameMailboxes s' s)
    (ht : SameMailboxes t t') : CountsEveryLoss s' t' where
  block hb := by
    simpa only [hs.mailbox, hs.overwrites, ht.mailbox, ht.overwrites] using h.block (hs.params ▸ hb)
  overwrite ho := by
    simpa only [hs.mailbox, hs.overwrites, ht.mailbox, ht.overwrites] using h.overwrite (hs.params ▸ ho)

theorem State.mailbox_withMailbox_other (s : State) {m k : Mailbox} (v : Word) (h : k ≠ m) :
    (s.withMailbox m v).mailbox k = s.mailbox k := by
  cases m <;> cases k
  · exact absurd rfl h
  · rfl
  · rfl
  · exact absurd rfl h

theorem mailboxWrite_countsEveryLoss {m : Mailbox} {v : Word} {s t : State} (h : mailboxWrite m v s = .done t) :
    CountsEveryLoss s t := by
  rcases mailboxWrite_cases m v s with ⟨hempty, he⟩ | ⟨-, -, he⟩ | ⟨-, ho, he⟩ <;> cases he.symm.trans h
  · have hkeep (k : Mailbox) (hk : s.mailbox k ≠ 0) : (s.withMailbox m v).mailbox k = s.mailbox k :=
      s.mailbox_withMailbox_other v fun hkm => hk (hkm ▸ hempty)
    have hcount : (s.withMailbox m v).overwrites = s.overwrites := by cases m <;> rfl
    exact ⟨fun _ => ⟨hkeep, hcount⟩, fun _ => ⟨.inl hcount, fun k hk hne => absurd (hkeep k hk) hne⟩⟩
  · exact ⟨fun hb => (by cases hb.symm.trans ho), fun _ => ⟨.inr rfl, fun _ _ _ => rfl⟩⟩

theorem registerStep_countsEveryLoss {cost : CycTable → Nat} {effect : State → Effect} {s t : State}
    (h : registerStep cost effect s = .next t) (he : RelatesWhenDone CountsEveryLoss effect) :
    CountsEveryLoss s t := by
  have frame := sameMailboxes_cycleFrame
  rcases registerStep_cases h with ⟨u, hu, rfl⟩ | ⟨-, rfl⟩ | ⟨c, w, -, rfl⟩
  · exact (he _ _ hu).congr (frame.fetched s) (frame.trans (frame.addCycles _ _) (frame.drawLatches _))
  · exact (frame.refl _).countsEveryLoss
  · exact (frame.trans (frame.fetched s) (frame.takeFault _ _ _ _)).countsEveryLoss

/-- Every instruction but XCT: only TLS and DSP write a mailbox, and each once. -/
theorem exec_countsEveryLoss {i : Instr} {s t : State} (hi : ∀ ind y, i ≠ .xct ind y) (h : exec i s = .next t) :
    CountsEveryLoss s t := by
  have frame := sameMailboxes_cycleFrame
  cases i <;> unfold exec at h <;> dsimp only at h
  case xct ind y => exact absurd rfl (hi ind y)
  case tls | dsp => exact registerStep_countsEveryLoss h fun _ _ hd => mailboxWrite_countsEveryLoss hd
  all_goals apply SameMailboxes.countsEveryLoss
  case cal | dac | jms | dzm | lac | xor | add | tad | and | jmp =>
    exact frame.memrefStep h fun _ _ _ => ⟨rfl, rfl, rfl, rfl⟩
  case isz => exact frame.memrefStep h iszAct_sameMailboxes
  case sad => exact frame.memrefStep h fun _ _ _ => sameMailboxes_skipWhen _ _
  case opcode13 rest => exact frame.registerStep h (opcode13Effect_relates _ rest)
  case otherIot rest => exact frame.registerStep h (otherIotEffect_relates _ rest)
  case krb => exact frame.registerStep h fun _ _ hd => by cases hd; exact ⟨rfl, rfl, rfl, rfl⟩
  case law => exact frame.registerStep h fun _ _ hd => by rw [lawEffect_done hd]; exact ⟨rfl, rfl, rfl, rfl⟩
  all_goals exact frame.registerStep h (operateEffect_sameMailboxes _)

/-- An XCT does to the mailboxes what the end of its chain does, and a chain too long does nothing (R110, R256). -/
theorem exec_xct_countsEveryLoss {ind : Bool} {y : Addr} {s t : State} (h : exec (.xct ind y) s = .next t) :
    CountsEveryLoss s t := by
  have htarget := xctActsAsItsTargetFetchedDirectly ind y s
  cases hc : chainEnd (s.params.xctMaxDepth - 1) (memoryBuffer ind y s) s with
  | none =>
    cases (exec_xct_of_chain_too_long hc).symm.trans h
    exact SameMailboxes.countsEveryLoss ⟨rfl, rfl, rfl, rfl⟩
  | some j =>
    rw [hc] at htarget
    obtain ⟨t', u, hj, hu, hsame⟩ := htarget
    cases hu.symm.trans h
    obtain ⟨hd, h8⟩ := xctWord_of_chainEnd hc
    have hne (ind' : Bool) (y' : Addr) : j ≠ .xct ind' y' := fun hx => h8 (opField_of_decode_xct (hd.trans hx))
    have hfield {α : Type} (f : State → α) := congrArg f hsame
    exact (exec_countsEveryLoss hne hj).congr (sameMailboxes_cycleFrame.refl s)
      ⟨hfield State.params, hfield State.mbxTty, hfield State.mbxDsp, hfield State.overwrites⟩

/-- Settles O32: one mailbox at a time of what every instruction keeps. -/
theorem blockLosesNoWordAndOverwriteCountsEveryLoss : Obligations.BlockLosesNoWordAndOverwriteCountsEveryLoss := by
  intro i s t h
  have k : CountsEveryLoss s t := by
    by_cases hx : ∃ ind y, i = .xct ind y
    · obtain ⟨ind, y, rfl⟩ := hx
      exact exec_xct_countsEveryLoss h
    · exact exec_countsEveryLoss (fun ind y hi => hx ⟨ind, y, hi⟩) h
  refine ⟨fun hb => ?_, fun ho => ?_⟩
  · obtain ⟨hkeep, hcount⟩ := k.block hb
    exact ⟨hkeep .tty, hkeep .dsp, hcount⟩
  · obtain ⟨hcount, hloss⟩ := k.overwrite ho
    exact ⟨hcount, hloss .tty, hloss .dsp⟩

end Sys2Proof.Machine

/-! The consumer's turn, and what a take reads and writes (spec/43_iot_mailbox.md R190, R191). -/

namespace Sys2Proof.Machine

/-! ### The consumer's turn -/

theorem consumerReady_eq_true_iff {s : State} : consumerReady s = true ↔ s.prun = true ∧
    (s.params.peripheral = .display ∧ s.mbxDsp ≠ 0 ∨ s.params.peripheral = .teleprinter ∧ s.mbxTty ≠ 0) := by
  cases hp : s.params.peripheral <;> simp [consumerReady, hp]

theorem takeTurn_consumer_of_not_ready {s : State} (hr : consumerReady s = false) :
    takeTurn .consumer s = .next s := by
  simp [takeTurn, consumerTurn, hr]

theorem consumerTake_none {s : State} (hp : s.params.peripheral = .none) : consumerTake s = s := by
  simp only [consumerTake, hp]

theorem consumerTake_display {s : State} (hp : s.params.peripheral = .display) :
    consumerTake s = decodeDisplay s.mbxDsp { s with mbxDsp := 0 } := by
  simp only [consumerTake, hp]

theorem consumerTake_teleprinter {s : State} (hp : s.params.peripheral = .teleprinter) :
    consumerTake s = decodeTeleprinter s.mbxTty { s with mbxTty := 0 } := by
  simp only [consumerTake, hp]

/-- A turn fixed for the consumer is a take of what is pending. -/
theorem step_scheduled_take {s : State} {rest : List Turn} (hs : s.schedule = .consumer :: rest)
    (hr : consumerReady s = true) : step s = .next (consumerTake { s with schedule := rest }) :=
  (step_scheduled hs).trans (takeTurn_consumer (s := { s with schedule := rest }) hr)

/-- Settles O50: the turn is a take exactly when PRUN is 1 and the configured mailbox is full. -/
theorem consumerTurnTakesOneWord : Obligations.ConsumerTurnTakesOneWord := by
  intro s rest hs
  refine ⟨fun hp hprun hfull => ?_, fun hp hprun hfull => ?_, fun hidle => ?_⟩
  · have hr := consumerReady_eq_true_iff.mpr ⟨hprun, .inl ⟨hp, hfull⟩⟩
    rw [step_scheduled_take hs hr, consumerTake_display (s := { s with schedule := rest }) hp]
  · have hr := consumerReady_eq_true_iff.mpr ⟨hprun, .inr ⟨hp, hfull⟩⟩
    rw [step_scheduled_take hs hr, consumerTake_teleprinter (s := { s with schedule := rest }) hp]
  · have hr : consumerReady s = false := by
      rw [← Bool.not_eq_true, consumerReady_eq_true_iff]
      rintro ⟨hprun, hpending⟩
      rcases hidle with hstopped | hnone | ⟨hp, hempty⟩ | ⟨hp, hempty⟩
      · simp [hprun] at hstopped
      · simp [hnone] at hpending
      · simp [hp, hempty] at hpending
      · simp [hp, hempty] at hpending
    exact (step_scheduled hs).trans (takeTurn_consumer_of_not_ready (s := { s with schedule := rest }) hr)

/-! ### What a take writes -/

theorem decodeDisplay_mailboxes (x : Word) (s : State) :
    (decodeDisplay x s).mbxDsp = s.mbxDsp ∧ (decodeDisplay x s).mbxTty = s.mbxTty := by
  obtain ⟨m, cx, cy, calls, he, -⟩ := decodeDisplay_frame x s
  rw [he]
  exact ⟨rfl, rfl⟩

theorem decodeTeleprinter_mailboxes (x : Word) (s : State) :
    (decodeTeleprinter x s).mbxTty = s.mbxTty ∧ (decodeTeleprinter x s).mbxDsp = s.mbxDsp := ⟨rfl, rfl⟩

/-! ### What a take reads -/

/-- The state with all that is not the consumer's from another one: the memory, the CPU's registers, the run's flags
and counts, and the model's own fields. -/
def State.withCpuOf (s c : State) : State :=
  { c with
    params := s.params
    mbxTty := s.mbxTty
    mbxDsp := s.mbxDsp
    mode := s.mode
    curX := s.curX
    curY := s.curY
    tcurX := s.tcurX
    tcurY := s.tcurY
    trace := s.trace }

theorem decodeDisplay_withCpuOf (x : Word) (s c : State) :
    decodeDisplay x (s.withCpuOf c) = (decodeDisplay x s).withCpuOf c := by
  have hmode : (s.withCpuOf c).mode = s.mode := rfl
  cases hm : s.mode <;> simp only [decodeDisplay, hmode, hm] <;> rfl

/-- A take reads nothing of the CPU: with another one it is the same take (R190). -/
theorem consumerTake_withCpuOf (s c : State) : consumerTake (s.withCpuOf c) = (consumerTake s).withCpuOf c := by
  cases hp : s.params.peripheral
  case none => rw [consumerTake_none hp, consumerTake_none (s := s.withCpuOf c) hp]
  case display =>
    rw [consumerTake_display hp, consumerTake_display (s := s.withCpuOf c) hp]
    exact decodeDisplay_withCpuOf s.mbxDsp { s with mbxDsp := 0 } c
  case teleprinter =>
    rw [consumerTake_teleprinter hp, consumerTake_teleprinter (s := s.withCpuOf c) hp]
    rfl

/-- Settles O51: a take writes only the consumer's part of the state, and two states that agree on it are one state
with two CPUs. -/
theorem consumerLeavesTheCpuAlone : Obligations.ConsumerLeavesTheCpuAlone := by
  refine ⟨fun s => ⟨?_, consumerTake_none, fun hp => ?_, fun hp => ?_⟩, ?_⟩
  · obtain ⟨tty, dsp, m, x, y, tx, ty, calls, he⟩ := consumerTake_eq s
    rw [he]
  · rw [consumerTake_display hp]
    exact decodeDisplay_mailboxes _ _
  · rw [consumerTake_teleprinter hp]
    exact decodeTeleprinter_mailboxes _ _
  · intro s t hparams htty hdsp hmode hx hy htx hty htrace
    have ht : t = s.withCpuOf t := by
      rw [State.withCpuOf, hparams, htty, hdsp, hmode, hx, hy, htx, hty, htrace]
    rw [ht, consumerTake_withCpuOf]
    exact ⟨rfl, rfl, rfl, rfl, rfl, rfl⟩

end Sys2Proof.Machine

/-! Weak fairness (spec/43_iot_mailbox.md R193, spec/20_memory.md R61): every infinite run is weakly fair, because the
wait of the CPU's turns counts down, and every weakly fair order is a run's, because the number of turns until the
consumer's is due can be the one drawn (log 8). -/

namespace Sys2Proof.Machine

/-! ### What a step does to the schedule and the wait, and when the CPU may step -/

/-- No turn writes the schedule or the wait: only the choice of a turn does. -/
theorem takeTurn_schedule_wait {turn : Turn} {s t : State} (h : takeTurn turn s = .next t) :
    t.schedule = s.schedule ∧ t.wait = s.wait := by
  rcases takeTurn_cases h with ⟨-, -, hcpu⟩ | ⟨-, -, rfl⟩ | ⟨-, rfl⟩ | ⟨-, rfl⟩ | ⟨-, rfl⟩
  · exact ⟨(exec_keeps hcpu).schedule, (exec_keeps hcpu).wait⟩
  · exact ⟨rfl, rfl⟩
  · rcases consumerTurn_cases s with ⟨-, he⟩ | ⟨-, he⟩ <;> rw [he]
    · obtain ⟨tty, dsp, m, x, y, tx, ty, calls, ht⟩ := consumerTake_eq s
      rw [ht]
      exact ⟨rfl, rfl⟩
    · exact ⟨rfl, rfl⟩
  · exact ⟨rfl, rfl⟩
  · exact ⟨rfl, rfl⟩

theorem freeTurn_schedule (s : State) : (freeTurn s).state.schedule = s.schedule := by
  rcases freeTurn_cases s with ⟨-, -, -, h⟩ | ⟨-, -, -, h⟩ | ⟨-, -, h⟩ | ⟨-, -, h⟩ | ⟨-, -, h⟩ <;> rw [h] <;> rfl

/-- A step uses up the fixed turn it takes. -/
theorem step_schedule {s t : State} (h : step s = .next t) : t.schedule = s.schedule.tail := by
  obtain ⟨-, hturn⟩ := step_next h
  obtain ⟨hsched, -⟩ := takeTurn_schedule_wait hturn
  rw [hsched]
  cases hs : s.schedule with
  | nil => rw [nextTurn_free hs, freeTurn_schedule, hs, List.tail_nil]
  | cons turn rest => rw [nextTurn_scheduled hs, List.tail_cons]

/-- A free turn of the CPU while both agents may step is one turn less to wait. -/
theorem step_waitLeft {s t : State} (hs : s.schedule = []) (hf : freeTurn s = { turn := .cpu, state := s.afterWait })
    (hw : waitLeft s ≠ 0) (h : step s = .next t) : waitLeft t = waitLeft s - 1 := by
  obtain ⟨-, hturn⟩ := step_next h
  obtain ⟨-, hwait⟩ := takeTurn_schedule_wait hturn
  rw [nextTurn_free hs, hf] at hwait
  have hsome : t.wait = some (waitLeft s - 1) := hwait.trans (if_neg hw)
  rw [waitLeft, hsome, Option.getD_some]

theorem cpuRunning_of_enabled {s : State} (h : cpuEnabled s = true) : cpuRunning s = true := by
  simp only [cpuEnabled, Bool.and_eq_true] at h
  exact h.1

theorem cpuEnabled_of_not_running {s : State} (h : cpuRunning s = false) : cpuEnabled s = false := by
  simp [cpuEnabled, h]

/-! ### Every run is weakly fair -/

/-- An infinite run of the machine. -/
def IsRun (r : Nat → State) : Prop := ∀ n, step (r n) = .next (r (n + 1))

section Run

variable {r : Nat → State}

/-- The fixed turns of a run are used up in the end. -/
theorem IsRun.exists_schedule_nil (hrun : IsRun r) (n : Nat) : ∃ m, n ≤ m ∧ (r m).schedule = [] := by
  induction hs : (r n).schedule generalizing n with
  | nil => exact ⟨n, le_rfl, hs⟩
  | cons turn rest ih =>
    have hrest : (r (n + 1)).schedule = rest := by rw [step_schedule (hrun n), hs, List.tail_cons]
    obtain ⟨m, hm, hnil⟩ := ih (n + 1) hrest
    exact ⟨m, by omega, hnil⟩

theorem IsRun.schedule_nil_succ (hrun : IsRun r) {n : Nat} (hs : (r n).schedule = []) :
    (r (n + 1)).schedule = [] := by
  rw [step_schedule (hrun n), hs, List.tail_nil]

/-- Once the turns are free, the consumer's step is taken or disabled before the wait is over. -/
theorem IsRun.consumer_served_of_free (hrun : IsRun r) {n : Nat} (hs : (r n).schedule = []) :
    ∃ m, n ≤ m ∧ (consumerReady (r m) = false ∨ (nextTurn (r m)).turn = .consumer) := by
  induction hk : waitLeft (r n) using Nat.strong_induction_on generalizing n with
  | _ k ih =>
    have hnext := nextTurn_free hs
    rcases freeTurn_cases (r n) with ⟨-, -, -, hf⟩ | ⟨-, -, hw, hf⟩ | ⟨-, -, hf⟩ | ⟨hr, -, -⟩ | ⟨hr, -, -⟩
    · exact ⟨n, le_rfl, .inr (by rw [hnext, hf])⟩
    · have hless := step_waitLeft hs hf hw (hrun n)
      obtain ⟨m, hm, hserved⟩ := ih (waitLeft (r (n + 1))) (by omega) (hrun.schedule_nil_succ hs) rfl
      exact ⟨m, by omega, hserved⟩
    · exact ⟨n, le_rfl, .inr (by rw [hnext, hf])⟩
    · exact ⟨n, le_rfl, .inl hr⟩
    · exact ⟨n, le_rfl, .inl hr⟩

theorem IsRun.consumer_served (hrun : IsRun r) (n : Nat) :
    ∃ m, n ≤ m ∧ (consumerReady (r m) = false ∨ (nextTurn (r m)).turn = .consumer) := by
  obtain ⟨m, hm, hs⟩ := hrun.exists_schedule_nil n
  obtain ⟨m', hm', hserved⟩ := hrun.consumer_served_of_free hs
  exact ⟨m', hm.trans hm', hserved⟩

/-- A free turn goes to the CPU unless the consumer may take or the CPU is not enabled. -/
theorem cpu_served_of_not_ready {s : State} (hs : s.schedule = []) (hr : consumerReady s = false) :
    cpuEnabled s = false ∨ (nextTurn s).turn = .cpu := by
  cases hc : cpuRunning s
  · exact .inl (cpuEnabled_of_not_running hc)
  · exact .inr (by rw [nextTurn_free hs, freeTurn_cpu hr hc])

/-- After a turn of the consumer it has nothing more to take. -/
theorem consumerReady_after_consumer {s t : State} (hturn : (nextTurn s).turn = .consumer)
    (h : step s = .next t) : consumerReady t = false := by
  obtain ⟨-, htake⟩ := step_next h
  rw [hturn] at htake
  cases htake
  rcases consumerTurn_cases (nextTurn s).state with ⟨-, he⟩ | ⟨hr, he⟩ <;> rw [he]
  · exact consumerReady_consumerTake _
  · exact hr

/-- The consumer never takes two free turns in a row, so the CPU waits for one turn at most. -/
theorem IsRun.cpu_served (hrun : IsRun r) (n : Nat) :
    ∃ m, n ≤ m ∧ (cpuEnabled (r m) = false ∨ (nextTurn (r m)).turn = .cpu) := by
  obtain ⟨m, hm, hs⟩ := hrun.exists_schedule_nil n
  by_cases hturn : (nextTurn (r m)).turn = .consumer
  · have hr := consumerReady_after_consumer hturn (hrun m)
    exact ⟨m + 1, by omega, cpu_served_of_not_ready (hrun.schedule_nil_succ hs) hr⟩
  · refine ⟨m, hm, ?_⟩
    rw [nextTurn_free hs] at hturn ⊢
    rcases freeTurn_cases (r m) with ⟨-, -, -, hf⟩ | ⟨-, -, -, hf⟩ | ⟨-, he, -⟩ | ⟨-, -, hf⟩ | ⟨-, hc, -⟩
    · exact absurd (congrArg TurnChoice.turn hf) hturn
    · exact .inr (congrArg TurnChoice.turn hf)
    · exact .inl he
    · exact .inr (congrArg TurnChoice.turn hf)
    · exact .inl (cpuEnabled_of_not_running hc)

end Run

/-! ### Counting down to the next time something holds -/

section Until

variable {due : Nat → Prop} [DecidablePred due]

/-- How many steps on from `n` the next one is at which `due` holds. -/
def stepsUntil (h : ∀ n, ∃ k, due (n + k)) (n : Nat) : Nat := Nat.find (h n)

theorem stepsUntil_eq_zero (h : ∀ n, ∃ k, due (n + k)) (n : Nat) : stepsUntil h n = 0 ↔ due n :=
  Nat.find_eq_zero (h n)

theorem stepsUntil_succ (h : ∀ n, ∃ k, due (n + k)) {n : Nat} (hn : stepsUntil h n ≠ 0) :
    stepsUntil h (n + 1) = stepsUntil h n - 1 := by
  have hshift : ∃ k, due (n + (k + 1)) := by simpa only [Nat.add_right_comm, Nat.add_assoc] using h (n + 1)
  have hfirst : stepsUntil h n = Nat.find hshift + 1 :=
    Nat.find_comp_succ (h n) hshift fun h0 => hn ((stepsUntil_eq_zero h n).mpr h0)
  have hnext : stepsUntil h (n + 1) = Nat.find hshift :=
    Nat.find_congr' fun {k} => by rw [Nat.add_right_comm, Nat.add_assoc]
  omega

end Until

/-- What is left of a number of turns once one of them is used up, none when it was the last. -/
def waitAfter (d : Nat) : Option Nat := if d = 0 then none else some (d - 1)

/-- The waits that a run of numbers leaves, none at its start. -/
def waitsOf (d : Nat → Nat) : Nat → Option Nat
  | 0 => none
  | n + 1 => waitAfter (d n)

/-- Where the numbers count down to 0, every wait that is left is the number itself, and the others can be drawn so. -/
theorem waitsOf_getD {d : Nat → Nat} (hd : ∀ n, d n ≠ 0 → d (n + 1) = d n - 1) (n : Nat) :
    (waitsOf d n).getD (d n) = d n := by
  cases n with
  | zero => rfl
  | succ n =>
    rw [waitsOf, waitAfter]
    split_ifs with h0
    · rfl
    · exact (hd n h0).symm

/-! ### Every weakly fair order is a run's -/

/-- The turn is an agent's whose step is enabled. -/
def AgentEnabled (turn : Turn) (s : State) : Prop :=
  (turn = .cpu ∧ cpuEnabled s = true) ∨ (turn = .consumer ∧ consumerReady s = true)

/-- At `n` the order takes the consumer's step, or it is not enabled. -/
abbrev ConsumerServed (order : Nat → Turn) (r : Nat → State) (n : Nat) : Prop :=
  consumerReady (r n) = false ∨ order n = .consumer

/-- With the number of turns until the consumer is served as its wait, a free turn is the one the order has. -/
theorem freeTurn_withWait {turn : Turn} {s : State} {d : Nat} (hen : AgentEnabled turn s)
    (hd : d = 0 ↔ consumerReady s = false ∨ turn = .consumer) :
    freeTurn (s.withWait (some d)) = { turn := turn, state := s.withWait (waitAfter d) } := by
  have hboth (hr : consumerReady s = true) (he : cpuEnabled s = true) : freeTurn (s.withWait (some d)) =
      { turn := if d = 0 then .consumer else .cpu, state := s.withWait (waitAfter d) } :=
    freeTurn_chosen (s := s.withWait (some d)) hr ((cpuEnabled_wait s _).trans he)
  rcases hen with ⟨rfl, he⟩ | ⟨rfl, hr⟩
  · cases hr : consumerReady s
    · obtain rfl : d = 0 := hd.mpr (.inl hr)
      exact freeTurn_cpu (s := s.withWait (some 0)) hr (cpuRunning_of_enabled (s := s) he)
    · have hne : d ≠ 0 := by simp [hd, hr]
      rw [hboth hr he, if_neg hne]
  · obtain rfl : d = 0 := hd.mpr (.inr rfl)
    cases he : cpuEnabled s
    · exact freeTurn_consumer (s := s.withWait (some 0)) hr ((cpuEnabled_wait s _).trans he)
    · exact hboth hr he

/-- So the step is that turn, and leaves the rest of the number. -/
theorem step_withWait {turn : Turn} {s t : State} {d : Nat} (hs : s.schedule = []) (hen : AgentEnabled turn s)
    (hd : d = 0 ↔ consumerReady s = false ∨ turn = .consumer) (h : takeTurn turn s = .next t) :
    (nextTurn (s.withWait (some d))).turn = turn ∧
      step (s.withWait (some d)) = .next (t.withWait (waitAfter d)) := by
  have hfree := freeTurn_withWait hen hd
  have hagent : cpuRunning s = true ∨ consumerReady s = true ∨ s.prun = true := by
    rcases hen with ⟨-, he⟩ | ⟨-, hr⟩
    · exact .inl (cpuRunning_of_enabled he)
    · exact .inr (.inl hr)
  refine ⟨by rw [nextTurn_free (s := s.withWait (some d)) hs, hfree], ?_⟩
  rw [step_free (s := s.withWait (some d)) hs hagent, hfree]
  exact takeTurn_wait (waitAfter d) h

/-- Settles O11: a run serves both agents, and the numbers that count down to each service of the consumer give a
weakly fair order. -/
theorem runsAreExactlyTheWeaklyFairOrders : Obligations.RunsAreExactlyTheWeaklyFairOrders := by
  refine ⟨fun r hrun n => ⟨fun _ => IsRun.consumer_served hrun n, fun _ => IsRun.cpu_served hrun n⟩, ?_⟩
  intro order r hs0 hen hturn hfair
  have hs (n : Nat) : (r n).schedule = [] := by
    induction n with
    | zero => exact hs0
    | succ n ih => exact (takeTurn_schedule_wait (hturn n)).1.trans ih
  have hserved (n : Nat) : ∃ k, ConsumerServed order r (n + k) := by
    obtain ⟨m, hm, h⟩ := hfair n
    obtain ⟨k, rfl⟩ := Nat.exists_eq_add_of_le hm
    exact ⟨k, h⟩
  refine ⟨stepsUntil hserved, waitsOf (stepsUntil hserved), rfl, fun n => ?_⟩
  rw [waitsOf_getD (d := stepsUntil hserved) fun n => stepsUntil_succ hserved]
  exact step_withWait (hs n) (hen n) (stepsUntil_eq_zero hserved n) (hturn n)

end Sys2Proof.Machine

/-! The protocol decoder: one word of each mode, the code groups of Character mode, and the teleprinter's use of them
(spec/44_display.md R210 to R236). -/

namespace Sys2Proof.Machine

/-! ### One display word in each mode -/

section DecodeDisplay

variable {s : State} (x : Word)

theorem decodeDisplay_parameter (hm : s.mode = .parameter) :
    decodeDisplay x s = { s with mode := modeOfCode (nextModeField x), trace := s.trace ++ [.present] } := by
  simp [decodeDisplay, hm, State.emit]

theorem decodeDisplay_point (hm : s.mode = .point) :
    decodeDisplay x s = { s with
      mode := modeOfCode (nextModeField x)
      trace := s.trace ++ [pointCall s.params x, .present] } := by
  simp [decodeDisplay, hm, State.emit]

theorem decodeDisplay_vector (hm : s.mode = .vector) :
    decodeDisplay x s = { s with
      mode := if x.getLsbD 17 then .parameter else .vector
      trace := s.trace ++ [vectorCall s.params x, .present] } := by
  simp [decodeDisplay, hm, State.emit]

end DecodeDisplay

/-- The four mode codes (R215). -/
theorem modeOfCode_eq_ite (k : BitVec 3) :
    modeOfCode k =
      if k.toNat = 1 then .point else if k.toNat = 3 then .character else if k.toNat = 4 then .vector
      else .parameter := by
  unfold modeOfCode
  split
  case h_1 h | h_2 h | h_3 h => simp [h]
  case h_4 hpoint hcharacter hvector => rw [if_neg hpoint, if_neg hcharacter, if_neg hvector]

/-- The offset as a number: the low ten bits, and 1024 less from 512 up when they are signed (R217). -/
theorem pointOffset_eq (p : Params) (x : Word) :
    pointOffset p x =
      if p.pointSigned = true ∧ 512 ≤ ((x.toNat % 1024 : Nat) : Int) then ((x.toNat % 1024 : Nat) : Int) - 1024
      else ((x.toNat % 1024 : Nat) : Int) := by
  have hfield : (x.extractLsb' 0 10).toNat = x.toNat % 1024 := by simp
  unfold pointOffset
  cases p.pointSigned
  · simp [hfield]
  · simp only [if_true, true_and, BitVec.toInt_eq_toNat_cond, hfield]
    split_ifs <;> omega

/-- Sign and magnitude, as a product (R218). -/
theorem signedMagnitude_eq_mul (negative : Bool) (m : BitVec 7) :
    signedMagnitude negative m = (if negative then -1 else 1) * (m.toNat : Int) := by
  cases negative <;> simp [signedMagnitude]

/-- Settles O53: the codes of R215, from a word that makes no call. -/
theorem parameterWordSelectsTheMode : Obligations.ParameterWordSelectsTheMode := by
  intro x s hm
  rw [decodeDisplay_parameter x hm, modeOfCode_eq_ite]
  rfl

/-- Settles O54: the offset as a number. -/
theorem pointWordDrawsOnePoint : Obligations.PointWordDrawsOnePoint := by
  intro x s hm
  rw [decodeDisplay_point x hm, pointCall, pointOffset_eq]
  rfl

/-- Settles O55: both fields as products of a sign and a magnitude. -/
theorem vectorWordDrawsFromTheCentre : Obligations.VectorWordDrawsFromTheCentre := by
  intro x s hm dx dy
  have hdx : signedMagnitude (x.getLsbD 7) (x.extractLsb' 0 7) = dx := by
    simp [signedMagnitude_eq_mul, dx]
  have hdy : signedMagnitude (x.getLsbD 15) (x.extractLsb' 8 7) = dy := by
    simp [signedMagnitude_eq_mul, dy, Nat.shiftRight_eq_div_pow]
  rw [decodeDisplay_vector x hm, vectorCall, hdx, hdy]

/-! ### One code group -/

section Advance

variable {p : Params} {cx : Nat} (cy : Nat)

theorem advanceX_of_lt (h : cx + 1 < p.cols) : advanceX p cx = cx + 1 := if_neg (Nat.not_le.mpr h)

theorem advanceY_of_lt (h : cx + 1 < p.cols) : advanceY p cx cy = cy := if_neg (Nat.not_le.mpr h)

theorem advanceX_of_le (h : p.cols ≤ cx + 1) : advanceX p cx = 0 := if_pos h

theorem advanceY_of_le (h : p.cols ≤ cx + 1) : advanceY p cx cy = (cy + 1) % p.rows := if_pos h

end Advance

/-- The rest of a word after an advance: from the next column, or past the last from the next row (R223). -/
theorem decodeGroups_advance (p : Params) (rest : List Code) (cx cy : Nat) :
    decodeGroups p rest (advanceX p cx) (advanceY p cx cy) =
      if cx + 1 < p.cols then decodeGroups p rest (cx + 1) cy else decodeGroups p rest 0 ((cy + 1) % p.rows) := by
  split_ifs with h
  · rw [advanceX_of_lt h, advanceY_of_lt cy h]
  · rw [advanceX_of_le (Nat.not_lt.mp h), advanceY_of_le cy (Nat.not_lt.mp h)]

theorem ordinaryCode_iff {p : Params} {g : Code} : ordinaryCode p g = true ↔
    g ≠ p.chNul ∧ g ≠ p.chCr ∧ g ≠ p.chLf ∧ g ≠ p.chHsh ∧ g ≠ p.chVsh ∧ g ≠ p.chEsc := by
  simp [ordinaryCode]

section DecodeGroups

variable {p : Params} {g : Code} (rest : List Code) (cx cy : Nat)

theorem decodeGroups_escape :
    decodeGroups p (p.chEsc :: rest) cx cy = { calls := [], cx := cx, cy := cy, escaped := true } := if_pos rfl

theorem decodeGroups_null (h : p.chNul ≠ p.chEsc) :
    decodeGroups p (p.chNul :: rest) cx cy = decodeGroups p rest cx cy := by
  rw [decodeGroups, if_neg h, if_pos rfl]

/-- An ordinary code draws its glyph and advances (R222). -/
theorem decodeGroups_ordinary (h : ordinaryCode p g = true) :
    decodeGroups p (g :: rest) cx cy =
      { decodeGroups p rest (advanceX p cx) (advanceY p cx cy) with
        calls := .drawGlyph cx cy (glyphIndex p g) ::
          (decodeGroups p rest (advanceX p cx) (advanceY p cx cy)).calls } := by
  obtain ⟨hnul, hcr, hlf, hhsh, hvsh, hesc⟩ := ordinaryCode_iff.mp h
  rw [decodeGroups, if_neg hesc, if_neg hnul, if_neg hcr, if_neg hlf, if_neg hhsh, if_neg hvsh]

/-- All that a first group can do: end the word, only move the cursor, or draw its glyph before the rest (R221). -/
theorem decodeGroups_cons_cases :
    (g = p.chEsc ∧ decodeGroups p (g :: rest) cx cy = { calls := [], cx := cx, cy := cy, escaped := true }) ∨
    (g ≠ p.chEsc ∧ ∃ cx' cy', decodeGroups p (g :: rest) cx cy = decodeGroups p rest cx' cy') ∨
    (ordinaryCode p g = true ∧ ∃ cx' cy', decodeGroups p (g :: rest) cx cy =
      { decodeGroups p rest cx' cy' with
        calls := .drawGlyph cx cy (glyphIndex p g) :: (decodeGroups p rest cx' cy').calls }) := by
  rw [decodeGroups]
  split_ifs with hesc hnul hcr hlf hhsh hvsh
  · exact .inl ⟨hesc, rfl⟩
  iterate 5 exact .inr (.inl ⟨hesc, _, _, rfl⟩)
  · exact .inr (.inr ⟨ordinaryCode_iff.mpr ⟨hnul, hcr, hlf, hhsh, hvsh, hesc⟩, _, _, rfl⟩)

end DecodeGroups

/-- The control codes are distinct; listed from the last to the first that R221 tests for, so that each is unlike the
ones after it. -/
theorem Params.controlCodes_nodup {p : Params} (hp : p.wf = true) :
    [p.chVsh, p.chHsh, p.chLf, p.chCr, p.chNul, p.chEsc].Nodup := by
  obtain ⟨-, -, -, -, -, -, -, -, -, hcodes⟩ := (Params.wf_iff p).mp hp
  exact (List.perm_append_comm (l₁ := [p.chEsc])).nodup_iff.mp (List.nodup_reverse.mpr hcodes)

/-- Settles O56: each control code fails the tests for the codes before it. -/
theorem controlCodesMoveTheCursor : Obligations.ControlCodesMoveTheCursor := by
  intro p rest cx cy hp
  have hcodes := Params.controlCodes_nodup hp
  simp only [List.nodup_cons, List.mem_cons, List.not_mem_nil, or_false, not_or] at hcodes
  obtain ⟨⟨hvh, hvl, hvc, hvn, hve⟩, ⟨hhl, hhc, hhn, hhe⟩, ⟨hlc, hln, hle⟩, ⟨hcn, hce⟩, hne, -⟩ := hcodes
  refine ⟨?cr, ?lf, ?vsh, ?hsh, decodeGroups_null rest cx cy hne, decodeGroups_escape rest cx cy⟩
  case cr => rw [decodeGroups, if_neg hce, if_neg hcn, if_pos rfl]
  case lf => rw [decodeGroups, if_neg hle, if_neg hln, if_neg hlc, if_pos rfl, nextRow]
  case hsh =>
    rw [decodeGroups, if_neg hhe, if_neg hhn, if_neg hhc, if_neg hhl, if_pos rfl, decodeGroups_advance]
  case vsh =>
    rw [decodeGroups, if_neg hve, if_neg hvn, if_neg hvc, if_neg hvl, if_neg hvh, if_pos rfl, nextRow]

/-! ### The groups of a word -/

/-- An escape code anywhere ends the word's groups as escaped: no other code keeps it from being read (R228). -/
theorem decodeGroups_escaped_iff (p : Params) (gs : List Code) (cx cy : Nat) :
    (decodeGroups p gs cx cy).escaped = true ↔ p.chEsc ∈ gs := by
  induction gs generalizing cx cy with
  | nil => simp [decodeGroups]
  | cons g rest ih =>
    rcases decodeGroups_cons_cases (p := p) (g := g) rest cx cy with
      ⟨rfl, he⟩ | ⟨hesc, cx', cy', he⟩ | ⟨ho, cx', cy', he⟩
    · simp [he]
    · simp [he, ih, Ne.symm hesc]
    · obtain ⟨-, -, -, -, -, hesc⟩ := ordinaryCode_iff.mp ho
      simp [he, ih, Ne.symm hesc]

/-- The calls are glyphs, at most one for each group (R222). -/
theorem decodeGroups_calls (p : Params) (gs : List Code) (cx cy : Nat) :
    (decodeGroups p gs cx cy).calls.length ≤ gs.length ∧
      ∀ call ∈ (decodeGroups p gs cx cy).calls, ∃ x y g, call = .drawGlyph x y g := by
  induction gs generalizing cx cy with
  | nil => simp [decodeGroups]
  | cons g rest ih =>
    rcases decodeGroups_cons_cases (p := p) (g := g) rest cx cy with
      ⟨rfl, he⟩ | ⟨-, cx', cy', he⟩ | ⟨-, cx', cy', he⟩
    · simp [he]
    · obtain ⟨hlength, hglyphs⟩ := ih cx' cy'
      rw [he]
      exact ⟨Nat.le_succ_of_le hlength, hglyphs⟩
    · obtain ⟨hlength, hglyphs⟩ := ih cx' cy'
      rw [he]
      exact ⟨Nat.succ_le_succ hlength, List.forall_mem_cons.mpr ⟨⟨_, _, _, rfl⟩, hglyphs⟩⟩

/-- As many calls as groups means that the first group drew. -/
theorem decodeGroups_first_draws {p : Params} {g : Code} {rest : List Code} {cx cy : Nat}
    (h : (decodeGroups p (g :: rest) cx cy).calls.length = rest.length + 1) :
    ordinaryCode p g = true ∧
      (decodeGroups p (g :: rest) cx cy).calls.head? = some (.drawGlyph cx cy (glyphIndex p g)) := by
  rcases decodeGroups_cons_cases (p := p) (g := g) rest cx cy with
    ⟨rfl, he⟩ | ⟨-, cx', cy', he⟩ | ⟨ho, cx', cy', he⟩
  · simp [he] at h
  · rw [he] at h
    obtain ⟨hlength, -⟩ := decodeGroups_calls p rest cx' cy'
    omega
  · rw [he]
    exact ⟨ho, rfl⟩

/-- The groups of the word that three codes make up (R220). -/
theorem codeGroups_eq {x : Word} {g1 g2 g3 : Code}
    (hx : x.toNat = g1.toNat * 64 ^ 2 + g2.toNat * 64 + g3.toNat) : codeGroups x = [g1, g2, g3] := by
  have hfield (k : Nat) : (x.extractLsb' k 6).toNat = x.toNat / 2 ^ k % 64 := by
    simp [Nat.shiftRight_eq_div_pow]
  have h1 : x.extractLsb' 12 6 = g1 := BitVec.eq_of_toNat_eq (by rw [hfield]; omega)
  have h2 : x.extractLsb' 6 6 = g2 := BitVec.eq_of_toNat_eq (by rw [hfield]; omega)
  have h3 : x.extractLsb' 0 6 = g3 := BitVec.eq_of_toNat_eq (by rw [hfield]; omega)
  rw [codeGroups, h1, h2, h3]

/-! ### Character words -/

theorem decodeDisplay_character {s : State} (x : Word) (hm : s.mode = .character) :
    decodeDisplay x s = { s with
      curX := (decodeGroups s.params (codeGroups x) s.curX s.curY).cx
      curY := (decodeGroups s.params (codeGroups x) s.curX s.curY).cy
      mode := if s.params.chEsc ∈ codeGroups x then .parameter else .character
      trace := s.trace ++ (decodeGroups s.params (codeGroups x) s.curX s.curY).calls ++ [.present] } := by
  simp [decodeDisplay, hm, State.emit, decodeGroups_escaped_iff]

/-- Settles O57: the word's groups, and the ordinary code's advance. -/
theorem characterWordDecodesItsGroups : Obligations.CharacterWordDecodesItsGroups := by
  refine ⟨fun x g1 g2 g3 s hm hx => ?_, fun p g rest cx cy _ ho hcx => ?_⟩
  · rw [decodeDisplay_character x hm, codeGroups_eq hx]
    simp only [List.mem_cons, List.not_mem_nil, or_false, eq_comm (a := s.params.chEsc)]
  · have hlt : cx + 1 < p.cols ↔ ¬ cx + 1 = p.cols := by omega
    rw [decodeGroups_ordinary rest cx cy ho, decodeGroups_advance]
    simp only [hlt, ite_not]

/-- Three ordinary codes with room for their glyphs (R222, R223). -/
theorem decodeGroups_three_ordinary {p : Params} {g1 g2 g3 : Code} {cx : Nat} (cy : Nat)
    (h1 : ordinaryCode p g1 = true) (h2 : ordinaryCode p g2 = true) (h3 : ordinaryCode p g3 = true)
    (hroom : cx + 3 ≤ p.cols) :
    decodeGroups p [g1, g2, g3] cx cy =
      { calls := [.drawGlyph cx cy (glyphIndex p g1), .drawGlyph (cx + 1) cy (glyphIndex p g2),
          .drawGlyph (cx + 2) cy (glyphIndex p g3)]
        cx := advanceX p (cx + 2)
        cy := advanceY p (cx + 2) cy
        escaped := false } := by
  have hlt1 : cx + 1 < p.cols := by omega
  have hlt2 : cx + 1 + 1 < p.cols := by omega
  rw [decodeGroups_ordinary _ _ _ h1, advanceX_of_lt hlt1, advanceY_of_lt cy hlt1,
    decodeGroups_ordinary _ _ _ h2, advanceX_of_lt hlt2, advanceY_of_lt cy hlt2,
    decodeGroups_ordinary _ _ _ h3]
  rfl

/-- Settles O58: only the third advance can wrap. -/
theorem threeOrdinaryCodesDrawThreeGlyphs : Obligations.ThreeOrdinaryCodesDrawThreeGlyphs := by
  intro x g1 g2 g3 s hm hx h1 h2 h3 hroom
  have hesc : s.params.chEsc ∉ [g1, g2, g3] := by
    rw [← decodeGroups_escaped_iff s.params _ s.curX s.curY, decodeGroups_three_ordinary _ h1 h2 h3 hroom]
    exact Bool.false_ne_true
  have hX : advanceX s.params (s.curX + 2) = if s.curX + 3 = s.params.cols then 0 else s.curX + 3 := by
    unfold advanceX
    split_ifs <;> omega
  have hY : advanceY s.params (s.curX + 2) s.curY =
      if s.curX + 3 = s.params.cols then (s.curY + 1) % s.params.rows else s.curY := by
    unfold advanceY nextRow
    split_ifs <;> omega
  rw [decodeDisplay_character x hm, codeGroups_eq hx, if_neg hesc, decodeGroups_three_ordinary _ h1 h2 h3 hroom,
    hX, hY, List.append_assoc, ← hm]
  rfl

/-- Settles O59: the word of each mode, and the frame they share. -/
theorem modeTransitions : Obligations.ModeTransitions := by
  intro x s
  refine ⟨fun hm => ?_, fun hm => ?_, fun hm => ?_, fun hm => ?_, fun hm => ?_, ?_⟩
  · rw [decodeDisplay_parameter x hm, nextModeField]
  · rw [decodeDisplay_point x hm, nextModeField]
  · rw [decodeDisplay_vector x hm]
  · rw [decodeDisplay_character x hm, codeGroups]
  · cases hmode : s.mode
    case parameter => rw [decodeDisplay_parameter x hmode]; exact ⟨rfl, rfl⟩
    case point => rw [decodeDisplay_point x hmode]; exact ⟨rfl, rfl⟩
    case vector => rw [decodeDisplay_vector x hmode]; exact ⟨rfl, rfl⟩
    case character => exact absurd hmode hm
  · obtain ⟨m, cx, cy, calls, he, -⟩ := decodeDisplay_frame x s
    rw [he]
    exact ⟨rfl, rfl⟩

/-! ### The teleprinter -/

theorem decodeTeleprinter_eq (x : Word) (s : State) :
    decodeTeleprinter x s = { s with
      tcurX := (decodeGroups s.params (codeGroups x) s.tcurX s.tcurY).cx
      tcurY := (decodeGroups s.params (codeGroups x) s.tcurX s.tcurY).cy
      trace := s.trace ++ (decodeGroups s.params (codeGroups x) s.tcurX s.tcurY).calls ++ [.present] } := rfl

/-- The word TLS sends holds AC's low 8 bits (R183). -/
theorem tlsWord_toNat (ac : Word) : (tlsWord ac).toNat = ac.toNat % 256 := by
  rw [tlsWord_eq_and, BitVec.toNat_and]
  exact Nat.and_two_pow_sub_one_eq_mod ac.toNat 8

/-- So its first group is 0 and its second has two bits (R232). -/
theorem codeGroups_tlsWord (ac : Word) :
    codeGroups (tlsWord ac) = [0, BitVec.ofNat 6 (ac.toNat / 64 % 4), BitVec.ofNat 6 (ac.toNat % 64)] := by
  apply codeGroups_eq
  rw [tlsWord_toNat]
  simp only [BitVec.toNat_ofNat, show (0 : Code).toNat = 0 from rfl]
  omega

/-- Settles O60: of the word TLS sends, the null group is skipped, and two calls of two groups are one of each. -/
theorem teleprinterWordDrawsAtMostTwoGlyphs : Obligations.TeleprinterWordDrawsAtMostTwoGlyphs := by
  refine ⟨fun x g1 g2 g3 s hx => ?_, ?_⟩
  · rw [decodeTeleprinter_eq, codeGroups_eq hx]
  · intro ac s hnul hesc g2 g3
    have hskip : decodeGroups s.params (codeGroups (tlsWord ac)) s.tcurX s.tcurY =
        decodeGroups s.params [g2, g3] s.tcurX s.tcurY := by
      rw [codeGroups_tlsWord, ← hnul]
      exact decodeGroups_null _ _ _ (hnul ▸ Ne.symm hesc)
    obtain ⟨hlength, hglyphs⟩ := decodeGroups_calls s.params [g2, g3] s.tcurX s.tcurY
    refine ⟨tlsWord_toNat ac, ?_, hlength, hglyphs, fun htwo => ?_⟩
    · rw [decodeTeleprinter_eq, hskip]
    · obtain ⟨ho, hhead⟩ := decodeGroups_first_draws htwo
      obtain ⟨hne, -⟩ := ordinaryCode_iff.mp ho
      have hpos : g2.toNat ≠ 0 := fun h0 => hne (hnul ▸ BitVec.eq_of_toNat_eq h0)
      have hle : g2.toNat ≤ 3 := by
        simp only [g2, BitVec.toNat_ofNat]
        omega
      exact ⟨Nat.pos_of_ne_zero hpos, hle, hhead⟩

end Sys2Proof.Machine

/-! The faults: the words of the illegal rows written out, an illegal word at the end of a chain of XCTs, and the chain
that never ends (spec/60_exceptions.md R251 to R256, spec/40_cycle.md R109, R110, R113, spec/41_memref.md R130). -/

namespace Sys2Proof

/-! ### The words of the illegal rows -/

/-- Two fields side by side are the sum of the high one in its place and the low one, widened. -/
theorem append_eq_add_setWidth {m n : Nat} (a : BitVec m) (b : BitVec n) :
    a ++ b = (a ++ 0#n) + b.setWidth (m + n) := by
  have hwiden : 0#m ++ b = b.setWidth (m + n) := by
    apply BitVec.eq_of_toNat_eq
    simp [BitVec.toNat_append, BitVec.toNat_setWidth_of_le (Nat.le_add_left n m), -BitVec.toNat_setWidth]
  rw [← hwiden, BitVec.append_zero_add_zero_append]

theorem opcode13Word_eq_add (rest : BitVec 14) : opcode13Word rest = 0o640000 + rest.setWidth 18 :=
  append_eq_add_setWidth 13#4 rest

theorem otherIotWord_eq_add (rest : BitVec 14) : otherIotWord rest = 0o700000 + rest.setWidth 18 :=
  append_eq_add_setWidth 14#4 rest

theorem operateWord_eq_add (bits : BitVec 13) : operateWord bits = 0o740000 + bits.setWidth 18 :=
  append_eq_add_setWidth 0b11110#5 bits

theorem lawWord_eq_add (k : BitVec 13) : lawWord k = 0o760000 + k.setWidth 18 := append_eq_add_setWidth 0b11111#5 k

end Sys2Proof

namespace Sys2Proof.Machine

/-- Settles O5: each row has its cause, and an instruction with a cause takes that fault, its word written as a sum. -/
theorem illegalInstructionsTakeTheirFault : Obligations.IllegalInstructionsTakeTheirFault := by
  refine fun s => ⟨fun rest => ?_, fun rest => ?_, fun bits hbits => ?_, fun k hopt => ?_⟩
  · rw [← opcode13Word_eq_add]
    exact exec_of_illegalCause (i := .opcode13 rest) rfl
  · rw [← otherIotWord_eq_add]
    exact exec_of_illegalCause (i := .otherIot rest) rfl
  · have hcause : illegalCause s.params (.opr bits) = some .badOperate := by
      simp [illegalCause, operateLegal_eq_false_iff.mpr hbits]
    rw [← operateWord_eq_add]
    exact exec_of_illegalCause hcause
  · have hcause : illegalCause s.params (.law k) = some .badOperate := by simp [illegalCause, hopt]
    rw [← lawWord_eq_add]
    exact exec_of_illegalCause hcause

/-! ### An illegal word, nested -/

/-- A nested word faults for its own cause at every depth within the limit, and the word is what it reports (R109,
R110). -/
theorem execWord_of_illegalCause {i : Instr} {w : Word} {s : State} {c : FaultCause} (hd : decode s.params w = i)
    (hc : illegalCause s.params i = some c) (n : Nat) : execWord (n + 1) w s = .trap c w := by
  have hw : encode s.params i = w := hd ▸ encode_decode s.params w
  rw [execWord, hd]
  cases i with
  | opcode13 rest | otherIot rest =>
    cases hc
    exact congrArg (Effect.trap _) hw
  | opr bits =>
    rw [illegalCause] at hc
    split_ifs at hc with hl
    cases hc
    have htrap := operateEffect_illegal s (Bool.eq_false_of_not_eq_true hl)
    exact (congrArg (Effect.charge _) htrap).trans (congrArg (Effect.trap _) hw)
  | law k =>
    rw [illegalCause] at hc
    split_ifs at hc with hl
    cases hc
    have htrap : lawEffect k s = .trap .badOperate (lawWord k) := if_neg hl
    exact (congrArg (Effect.charge _) htrap).trans (congrArg (Effect.trap _) hw)
  | _ => cases hc

/-- Settles O6: a fetched word takes its instruction's fault, and a nested one comes to a trap, which the outermost
XCT's step records over its own latches. -/
theorem faultingStepLeavesExactlyThis : Obligations.FaultingStepLeavesExactlyThis := by
  intro s c
  refine ⟨(illegalWordsAreExactlyThese s.params s.fetchWord).2 s c rfl, fun ind y j hchain hc => ?_⟩
  obtain ⟨hd, -⟩ := xctWord_of_chainEnd hchain
  have htrap : execWord 1 (xctWord ind y s) s.fetched = .trap c (xctWord ind y s) :=
    execWord_of_illegalCause (s := s.fetched) hd hc 0
  have hxct := exec_xct_of_chainEnd hchain
  rw [htrap] at hxct
  exact hxct

/-! ### An XCT of itself -/

/-- A word that is an XCT of its own cell starts a chain with no end, all of it that word. -/
theorem chain_of_self_xct {w : Word} {s : State} (h8 : opField w = 8)
    (hself : memoryBuffer (indirectField w) (addressField w) s = w) (n : Nat) :
    chainEnd n w s = none ∧ chainWord n w s = w := by
  induction n with
  | zero => exact ⟨rfl, rfl⟩
  | succ n ih => simpa only [chainEnd, chainWord, if_pos h8, hself] using ih

/-- Settles O7: whatever the bound, the chain is longer than it. -/
theorem selfExecutingXctFaults : Obligations.SelfExecutingXctFaults := by
  intro s y _ hcell
  have hw : s.readWord y = memrefWord 8 false y := hcell.trans (memrefBits_eq 8 false y)
  have hop : opField (s.readWord y) = 8 := hw ▸ opField_memrefWord 8 false y
  have hself : memoryBuffer (indirectField (s.readWord y)) (addressField (s.readWord y)) s = s.readWord y := by
    rw [hw, indirectField_memrefWord, addressField_memrefWord, ← hw]
    rfl
  obtain ⟨hend, hlast⟩ := chain_of_self_xct hop hself (s.params.xctMaxDepth - 1)
  have hword : xctWord false y s = s.readWord y := hlast
  have hexec := exec_xct_of_chain_too_long (ind := false) (y := y) hend
  rwa [hword] at hexec

end Sys2Proof.Machine

/-! The launch and the reset state (spec/70_reset_and_hazards.md R270, R271, R274). -/

namespace Sys2Proof.Machine

theorem launchPrun_eq_true_iff {p : Params} : launchPrun p = true ↔ p.peripheral ≠ .none := by
  cases hp : p.peripheral <;> simp [launchPrun, hp]

/-- Settles O43: a launch has a state only when the load has a memory, and that state's fields are then the table's. -/
theorem launchSetsTheState : Obligations.LaunchSetsTheState := by
  intro c ins dat s h
  unfold launch at h
  split at h
  next => cases h
  next m hload =>
    cases h
    exact ⟨hload, rfl, rfl, rfl, rfl, rfl, rfl, rfl, rfl, rfl, rfl, rfl, rfl, rfl, launchPrun_eq_true_iff,
      rfl, rfl, rfl, rfl, rfl⟩

/-- Settles O47: the load keeps the canonical form, the origin is a cell of any grid of R7's kind, and PRUN is 1 only
for a configured peripheral. -/
theorem launchedStateSatisfiesInv : Obligations.LaunchedStateSatisfiesInv := by
  intro c ins dat s hp hcells h
  obtain ⟨hload, hparams, -, -, -, -, -, -, -, -, hfault, -, -, -, hprun, -, hx, hy, htx, hty⟩ :=
    launchSetsTheState c ins dat s h
  obtain ⟨-, -, -, -, -, -, -, hcols, hrows, -⟩ := (Params.wf_iff c.params).mp hp
  exact {
    params := hparams ▸ hp
    mem := loadPairs_wf hcells hload
    curX := by rw [hx, hparams]; exact hcols
    curY := by rw [hy, hparams]; exact hrows
    tcurX := by rw [htx, hparams]; exact hcols
    tcurY := by rw [hty, hparams]; exact hrows
    faultStops := fun hf => absurd hfault hf
    noPeripheral := fun hn => by
      rw [← Bool.not_eq_true, hprun, ← hparams]
      exact fun hne => hne hn }

/-- The reset state is the launch that loads nothing, with the default choices (R270). -/
theorem launch_default : launch LaunchChoice.default [] [] = .ok State.reset := rfl

/-- Settles O44: the reset state is launched, and START_PC and the peripheral are those of the default parameters. -/
theorem resetHoldsTheLaunchValues : Obligations.ResetHoldsTheLaunchValues := by
  obtain ⟨-, hparams, -, -, hpc, -, -, -, hrun, hcycles, hfault, htty, hdsp, hover, hprun, hmode, hx, hy, htx,
    hty⟩ := launchSetsTheState LaunchChoice.default [] [] State.reset launch_default
  exact ⟨hpc, hrun, hcycles, hfault, htty, hdsp, hover, hprun.mpr (by decide), hmode, hx, hy, htx, hty, hparams⟩

/-- Settles O48: the reset state is launched, from parameters of R7's kind over an empty memory. -/
theorem resetSatisfiesInv : Obligations.ResetSatisfiesInv :=
  have hparams : Params.default.wf = true := by decide
  launchedStateSatisfiesInv LaunchChoice.default [] [] State.reset hparams Memory.wf_nil launch_default

end Sys2Proof.Machine

/-! The end of a run: the only stop of a step, and a next state in every other case (spec/70_reset_and_hazards.md
R276). -/

namespace Sys2Proof.Machine

/-- The run is over when the CPU has no step, the peripheral is stopped and no turn is fixed; a stopped peripheral's
consumer is never ready, whatever its mailbox holds (R191). -/
theorem allDone_eq_true_iff {s : State} : allDone s = true ↔
    (s.run = false ∨ s.fault ≠ none) ∧ s.prun = false ∧ s.schedule = [] := by
  have hended (hp : s.prun = false) : runEnded s = true ↔ cpuRunning s = false := by
    simp [runEnded, consumerReady_of_stopped hp]
  rw [← cpuRunning_eq_false_iff]
  simp only [allDone, Bool.and_eq_true, List.isEmpty_iff, Bool.not_eq_true']
  constructor
  · rintro ⟨⟨hs, he⟩, hp⟩
    exact ⟨(hended hp).mp he, hp, hs⟩
  · rintro ⟨hc, hp, hs⟩
    exact ⟨⟨hs, (hended hp).mpr hc⟩, hp⟩

/-- Every instruction has a next state, also when it holds or faults (R100). -/
theorem exec_next (i : Instr) (s : State) : ∃ t, exec i s = .next t := by
  rcases noInstructionStopsTheMachine i s with ⟨h, -⟩ | ⟨t, h, -⟩ | ⟨_, _, _, _, h⟩ <;> exact ⟨_, h⟩

theorem takeTurn_next (turn : Turn) (s : State) : ∃ t, takeTurn turn s = .next t := by
  cases turn
  case cpu =>
    cases hc : cpuRunning s
    · exact ⟨s, if_neg (Bool.eq_false_iff.mp hc)⟩
    · obtain ⟨t, ht⟩ := exec_next (decode s.params s.fetchWord) s
      exact ⟨t, (takeTurn_cpu hc).trans ht⟩
  case consumer | hostStopCpu | hostStopPeripheral => exact ⟨_, rfl⟩

/-- Settles O9: a step stops when all is done and is otherwise a turn, which always has a next state. -/
theorem stepStopsExactlyWhenTheRunHasEnded : Obligations.StepStopsExactlyWhenTheRunHasEnded := by
  intro s
  rw [← allDone_eq_true_iff]
  cases hd : allDone s
  · obtain ⟨t, ht⟩ := takeTurn_next (nextTurn s).turn (nextTurn s).state
    have hstep : step s = .next t := (step_turn hd).trans ht
    exact ⟨by simp [hstep], .inr ⟨t, hstep⟩⟩
  · exact ⟨iff_of_true (step_allDone hd) rfl, .inl (step_allDone hd)⟩

end Sys2Proof.Machine

/-! A take and a CPU step in either order (spec/70_reset_and_hazards.md R278): the CPU reads nothing that a take writes
but its mailbox's fullness, and under Block a step that does not hold has found the other mailbox empty or written
none (spec/43_iot_mailbox.md R185, R191). -/

namespace Sys2Proof.Machine

/-! ### What a take writes, as one update -/

/-- The state after a take from the mailbox `m` that left the decoders and the trace as in `d`. -/
def State.taken (s : State) (m : Mailbox) (d : State) : State :=
  { s with
    mbxTty := if m = .tty then 0 else s.mbxTty
    mbxDsp := if m = .dsp then 0 else s.mbxDsp
    mode := d.mode
    curX := d.curX
    curY := d.curY
    tcurX := d.tcurX
    tcurY := d.tcurY
    trace := d.trace }

section Taken

variable {m k : Mailbox} (s d : State)

@[simp] theorem State.taken_params : (s.taken m d).params = s.params := rfl

@[simp] theorem State.taken_fetchWord : (s.taken m d).fetchWord = s.fetchWord := rfl

@[simp] theorem memoryBuffer_taken (ind : Bool) (y : Addr) :
    memoryBuffer ind y (s.taken m d) = memoryBuffer ind y s := rfl

theorem State.fetched_taken : (s.taken m d).fetched = s.fetched.taken m d := rfl

theorem State.mailbox_taken_other (h : k ≠ m) : (s.taken m d).mailbox k = s.mailbox k := by
  cases k <;> exact if_neg h.symm

theorem State.withMailbox_taken_other (v : Word) (h : k ≠ m) :
    (s.taken m d).withMailbox k v = (s.withMailbox k v).taken m d := by
  cases k <;> cases m
  · exact absurd rfl h
  · rfl
  · rfl
  · exact absurd rfl h

theorem State.skipWhen_taken (c : Bool) : (s.taken m d).skipWhen c = (s.skipWhen c).taken m d := by
  cases c <;> rfl

end Taken

/-- `t` has in it all that a take from `m` in `s` reads. -/
structure SameForTake (m : Mailbox) (s t : State) : Prop where
  params : t.params = s.params
  mailbox : t.mailbox m = s.mailbox m
  mode : t.mode = s.mode
  curX : t.curX = s.curX
  curY : t.curY = s.curY
  tcurX : t.tcurX = s.tcurX
  tcurY : t.tcurY = s.tcurY
  trace : t.trace = s.trace

theorem SameForTake.refl (m : Mailbox) (s : State) : SameForTake m s s := ⟨rfl, rfl, rfl, rfl, rfl, rfl, rfl, rfl⟩

theorem consumerTake_display_taken {s t : State} (hp : s.params.peripheral = .display) (h : SameForTake .dsp s t) :
    consumerTake t = t.taken .dsp (consumerTake s) := by
  have hmbx : t.mbxDsp = s.mbxDsp := h.mailbox
  rw [consumerTake_display hp, consumerTake_display (h.params ▸ hp), hmbx]
  cases hm : s.mode <;>
    simp [decodeDisplay, State.taken, State.emit, h.mode, hm, h.params, h.curX, h.curY, h.tcurX, h.tcurY, h.trace]

theorem consumerTake_teleprinter_taken {s t : State} (hp : s.params.peripheral = .teleprinter)
    (h : SameForTake .tty s t) : consumerTake t = t.taken .tty (consumerTake s) := by
  have hmbx : t.mbxTty = s.mbxTty := h.mailbox
  rw [consumerTake_teleprinter hp, consumerTake_teleprinter (h.params ▸ hp), hmbx]
  simp [decodeTeleprinter, State.taken, State.emit, h.mode, h.params, h.curX, h.curY, h.tcurX, h.tcurY, h.trace]

/-- A ready consumer's take drains one full mailbox. In every state with the same for it to read it is the same
update, and as enabled while PRUN is the same. -/
theorem consumerTake_taken {s : State} (hr : consumerReady s = true) :
    ∃ m, s.mailbox m ≠ 0 ∧ ∀ t, SameForTake m s t →
      consumerTake t = t.taken m (consumerTake s) ∧ (t.prun = s.prun → consumerReady t = true) := by
  obtain ⟨hprun, ⟨hp, hfull⟩ | ⟨hp, hfull⟩⟩ := consumerReady_eq_true_iff.mp hr
  · refine ⟨.dsp, hfull, fun t h => ⟨consumerTake_display_taken hp h, fun hsame => ?_⟩⟩
    exact consumerReady_eq_true_iff.mpr ⟨hsame.trans hprun, .inl ⟨h.params ▸ hp, h.mailbox.trans_ne hfull⟩⟩
  · refine ⟨.tty, hfull, fun t h => ⟨consumerTake_teleprinter_taken hp h, fun hsame => ?_⟩⟩
    exact consumerReady_eq_true_iff.mpr ⟨hsame.trans hprun, .inr ⟨h.params ▸ hp, h.mailbox.trans_ne hfull⟩⟩

/-! ### Every effect on either side of a take -/

/-- Under Block, an effect that does not hold while the mailbox `m` is full is the same effect once it has been taken
from, with the take in the state it leaves. -/
def CommutesWithTake (m : Mailbox) (d : State) (effect : State → Effect) : Prop :=
  ∀ s : State, s.params.mailboxPolicy = .block → s.mailbox m ≠ 0 → effect s ≠ .hold →
    effect (s.taken m d) = (effect s).map (·.taken m d)

/-- The same of what a memory-reference instruction does with its own address and buffer. -/
def ActCommutesWithTake (m : Mailbox) (d : State) (act : Addr → Word → State → State) : Prop :=
  ∀ a v (s : State), act a v (s.taken m d) = (act a v s).taken m d

section Effects

variable {m : Mailbox} {d : State}

theorem Effect.charge_taken (e : Effect) (n : Nat) :
    (e.map (·.taken m d)).charge n = (e.charge n).map (·.taken m d) := by
  cases e <;> rfl

theorem iszAct_commutesWithTake : ActCommutesWithTake m d iszAct :=
  fun a v s => (s.writeWord a (v + 1)).skipWhen_taken d _

theorem sadAct_commutesWithTake : ActCommutesWithTake m d sadAct :=
  fun _ v s => s.skipWhen_taken d (s.ac != v)

theorem memrefEffect_commutesWithTake {act : Addr → Word → State → State} (h : ActCommutesWithTake m d act)
    (cost : CycTable → Nat) (ind : Bool) (y : Addr) : CommutesWithTake m d (memrefEffect cost act ind y) := by
  intro s _ _ _
  rw [memrefEffect_eq, memrefEffect_eq]
  exact congrArg (fun t : State => Effect.done (t.addCycles _)) (h _ _ s)

theorem registerEffect_commutesWithTake {effect : State → Effect} (h : CommutesWithTake m d effect)
    (cost : CycTable → Nat) : CommutesWithTake m d (registerEffect cost effect) := by
  intro s hb hfull hfree
  unfold registerEffect at hfree ⊢
  rw [h s hb hfull (fun he => hfree (Effect.charge_eq_hold.mpr he))]
  exact Effect.charge_taken _ _

/-- A write that is not held under Block is to another mailbox than the full one, which it found empty (R185). -/
theorem mailboxWrite_commutesWithTake (k : Mailbox) (f : State → Word) (hf : ∀ s : State, f (s.taken m d) = f s) :
    CommutesWithTake m d fun s => mailboxWrite k (f s) s := by
  intro s hb hfull hfree
  have hempty : s.mailbox k = 0 := by
    by_contra hk
    exact hfree (mailboxWrite_full_block _ hb hk)
  have hkm : k ≠ m := fun hkm => hfull (hkm ▸ hempty)
  have hempty' : (s.taken m d).mailbox k = 0 := (s.mailbox_taken_other d hkm).trans hempty
  simp only [mailboxWrite_empty _ hempty, mailboxWrite_empty _ hempty', hf, s.withMailbox_taken_other d _ hkm,
    Effect.map_done]

theorem operateEffect_commutesWithTake (bits : BitVec 13) : CommutesWithTake m d (operateEffect bits) := by
  intro s _ _ _
  unfold operateEffect
  split_ifs
  · exact congrArg Effect.done (by rw [operate_eq, operate_eq]; rfl)
  · rfl

theorem lawEffect_commutesWithTake (k : BitVec 13) : CommutesWithTake m d (lawEffect k) := by
  intro s _ _ _
  cases hl : s.params.optLaw <;>
    simp only [lawEffect, State.taken_params, hl, Bool.false_eq_true, if_true, if_false] <;> rfl

/-- Every word, to any depth. -/
theorem execWord_commutesWithTake (fuel : Nat) (w : Word) : CommutesWithTake m d (execWord fuel w) := by
  induction fuel generalizing w with
  | zero => exact fun _ _ _ _ => rfl
  | succ fuel ih =>
    intro s hb hfull hfree
    unfold execWord at hfree ⊢
    simp only [State.taken_params]
    cases hd : decode s.params w <;> simp only [hd] at hfree ⊢
    case xct ind y =>
      rw [memoryBuffer_taken, ih _ s hb hfull (fun he => hfree (Effect.charge_eq_hold.mpr he))]
      exact Effect.charge_taken _ _
    case isz => exact memrefEffect_commutesWithTake iszAct_commutesWithTake _ _ _ s hb hfull hfree
    case sad => exact memrefEffect_commutesWithTake sadAct_commutesWithTake _ _ _ s hb hfull hfree
    case cal | dac | jms | dzm | lac | xor | add | tad | and | jmp =>
      exact memrefEffect_commutesWithTake (fun _ _ _ => rfl) _ _ _ s hb hfull hfree
    case tls =>
      have h := mailboxWrite_commutesWithTake (m := m) (d := d) .tty (fun s => tlsWord s.ac) fun _ => rfl
      exact registerEffect_commutesWithTake h _ s hb hfull hfree
    case dsp =>
      have h := mailboxWrite_commutesWithTake (m := m) (d := d) .dsp (fun s => s.ac) fun _ => rfl
      exact registerEffect_commutesWithTake h _ s hb hfull hfree
    case law k => exact registerEffect_commutesWithTake (lawEffect_commutesWithTake k) _ s hb hfull hfree
    case krb | opcode13 | otherIot =>
      exact registerEffect_commutesWithTake (fun _ _ _ _ => rfl) _ s hb hfull hfree
    all_goals exact registerEffect_commutesWithTake (operateEffect_commutesWithTake _) _ s hb hfull hfree

end Effects

/-! ### The whole step -/

/-- An update that reads and writes nothing of the consumer's. -/
def UpdateCommutesWithTake (g : State → State) : Prop := ∀ m d s, g (State.taken s m d) = (g s).taken m d

/-- The instruction's whole step is its word's effect on the fetched state, latched before when it has an address and
with drawn latches after when it has none (R106, R113). -/
theorem exec_eq_finishStep (i : Instr) : ∃ latch draw : State → State,
    UpdateCommutesWithTake latch ∧ UpdateCommutesWithTake draw ∧
      (∀ u, ∃ ea mb, latch u = u.withLatches ea mb) ∧
      ∀ s w, decode s.params w = i → exec i s = finishStep s (latch s.fetched)
        ((execWord (s.params.xctMaxDepth - 1 + 1) w (latch s.fetched)).map draw) := by
  have hmap (e : Effect) : e.map id = e := by cases e <;> rfl
  cases instr_shape i with
  | @memref _ _ ind y h =>
    refine ⟨(·.latched ind y), id, fun _ _ _ => rfl, fun _ _ _ => rfl, fun u => ⟨_, _, rfl⟩, fun s w hd => ?_⟩
    rw [h.exec, hmap, h.nested _ w (s.fetched.latched ind y) hd]
    rfl
  | register h =>
    refine ⟨id, State.drawLatches, fun _ _ _ => rfl, fun _ _ _ => rfl, fun u => ⟨u.ea, u.mb, rfl⟩,
      fun s w hd => ?_⟩
    rw [h.exec, id, h.nested _ w s.fetched hd]
    rfl
  | @xct ind y h =>
    refine ⟨(·.latched ind y), id, fun _ _ _ => rfl, fun _ _ _ => rfl, fun u => ⟨_, _, rfl⟩, fun s w hd => ?_⟩
    rw [h, hmap, execWord_xct (s := s.fetched.latched ind y) (hd.trans h)]
    rfl

/-- A CPU step that neither holds nor faults is the same step after a take from a full mailbox under Block. -/
theorem cpuStep_taken {s t d : State} {m : Mailbox} (hb : s.params.mailboxPolicy = .block) (hfull : s.mailbox m ≠ 0)
    (hfree : cpuHolds s = false) (h : cpuStep s = .next t) (hf : t.fault = none) :
    cpuStep (s.taken m d) = .next (t.taken m d) := by
  obtain ⟨latch, draw, hlatch, hdraw, hlatches, hexec⟩ := exec_eq_finishStep (decode s.params s.fetchWord)
  obtain ⟨ea, mb, hprepared⟩ := hlatches s.fetched
  have hne : execWord (s.params.xctMaxDepth - 1 + 1) s.fetchWord (latch s.fetched) ≠ .hold := by
    rw [hprepared, execWord_ignoresLatches]
    exact fun he => beq_eq_false_iff_ne.mp hfree (Effect.map_eq_hold.mp he)
  have htake : execWord (s.params.xctMaxDepth - 1 + 1) s.fetchWord (latch (s.taken m d).fetched) =
      (execWord (s.params.xctMaxDepth - 1 + 1) s.fetchWord (latch s.fetched)).map (·.taken m d) := by
    rw [State.fetched_taken, hlatch]
    exact execWord_commutesWithTake _ _ (latch s.fetched) (by rw [hprepared]; exact hb)
      (by rw [hprepared]; cases m <;> exact hfull) hne
  have hs := (hexec s s.fetchWord rfl).symm.trans h
  have ht := hexec (s.taken m d) s.fetchWord rfl
  rw [State.taken_params, htake] at ht
  refine ht.trans ?_
  cases he : execWord (s.params.xctMaxDepth - 1 + 1) s.fetchWord (latch s.fetched) with
  | done u =>
    rw [he] at hs
    cases hs
    exact congrArg Host.Outcome.next (hdraw m d u)
  | hold => exact absurd he hne
  | trap c w =>
    rw [he] at hs
    cases hs
    cases hf

/-- Such a step leaves all that the take reads. -/
theorem cpuStep_sameForTake {s t : State} {m : Mailbox} (hb : s.params.mailboxPolicy = .block)
    (hfull : s.mailbox m ≠ 0) (h : cpuStep s = .next t) : SameForTake m s t := by
  have k := exec_keeps h
  obtain ⟨hblock, -⟩ := blockLosesNoWordAndOverwriteCountsEveryLoss _ s t h
  obtain ⟨htty, hdsp, -⟩ := hblock hb
  have hmbx : t.mailbox m = s.mailbox m := by
    cases m
    · exact htty hfull
    · exact hdsp hfull
  exact ⟨k.params, hmbx, k.mode, k.curX, k.curY, k.tcurX, k.tcurY, k.trace⟩

/-- Only a fault stops the peripheral (R253). -/
theorem cpuStep_prun {s t : State} (h : cpuStep s = .next t) (hf : t.fault = none) : t.prun = s.prun := by
  rcases noInstructionStopsTheMachine (decode s.params s.fetchWord) s with
    ⟨he, -⟩ | ⟨t', he, -, -, hprun, -⟩ | ⟨c, w, ea, mb, he⟩ <;> cases he.symm.trans h
  · rfl
  · exact hprun
  · cases hf

/-- Settles O52: the take is one update of the state before the CPU's step and of the state after it, and the step
commutes with that update. -/
theorem takeCommutesWithTheCpuStep : Obligations.TakeCommutesWithTheCpuStep := by
  intro s t hb _ hr hfree h hf
  obtain ⟨m, hfull, htake⟩ := consumerTake_taken hr
  obtain ⟨hbefore, -⟩ := htake s (SameForTake.refl m s)
  obtain ⟨hafter, hready⟩ := htake t (cpuStep_sameForTake hb hfull h)
  refine ⟨hready (cpuStep_prun h hf), ?_⟩
  rw [hbefore, hafter]
  exact cpuStep_taken hb hfull hfree h hf

end Sys2Proof.Machine
